-- ==== Sys2Proof/Word.lean ====
section
/-! DEFINITION. Sys2Proof/Word.lean: the widths of the engine's values (00_scope.md rules R7 and R9). Every value the
spec adds no width to (a count, an index, an address on the host's bus) is a Nat. -/

namespace Sys2Proof

/-- One byte lane of a 128-bit value, and one entry of a substitution table (rules R7, R10). -/
abbrev Byte := BitVec 8

/-- A 32-bit word: a register, a command word, a word of key material (rules R7, R20, R80). -/
abbrev Word := BitVec 32

/-- A 128-bit value: a block, a round key, a round constant (rule R7). -/
abbrev Block := BitVec 128

end Sys2Proof
end

