-- ==== Sys2Proof/Syntax.lean ====
section
/-! DEFINITION. Sys2Proof/Syntax.lean: the engine's commands, one constructor per row of spec/opcode_table.json
(30_encoding.md rules R81 to R83). A command word that matches no row is no instruction: Decode rejects it by name and
the machine completes it with IllegalCommand (rule R87). -/

namespace Sys2Proof

/-- The three commands (rule R96: "Only INIT, ENCRYPT and DECRYPT exist"). The numbers INIT carries are operands that
its execution checks, not its decoding (rules R84, R85, R151); which of them a command word can carry is WellFormed's. -/
inductive Instr where
  /-- Row INIT, format K: the requested key size in bits and the number of key words supplied (rule R81). -/
  | init (keybits keywords : Nat)
  /-- Row ENCRYPT, format B: the command word carries no operand (rules R82, R180). -/
  | encrypt
  /-- Row DECRYPT, format B: the command word carries no operand (rules R82, R181). -/
  | decrypt
  deriving DecidableEq, Repr

end Sys2Proof
end

