-- ==== Sys2Proof/WellFormed.lean ====
section
/-! DEFINITION. Sys2Proof/WellFormed.lean: which terms of Instr a command word can carry (30_encoding.md rules R84, R85
and R93): KEYBITS is a 16-bit and KEYWORDS a 4-bit unsigned field. -/

namespace Sys2Proof

/-- Each operand fits its field of the command word. Unsupported sizes are well formed: "Every value 0 to 65535 can be
encoded" (rule R84), and the engine answers them with InvalidKeyLength (rule R151). -/
def Instr.wellFormed : Instr → Bool
  | .init keybits keywords => decide (keybits ≤ 65535) && decide (keywords ≤ 15)
  | .encrypt => true
  | .decrypt => true

/-- The proposition form of the check. -/
abbrev Instr.WellFormed (i : Instr) : Prop := i.wellFormed = true

end Sys2Proof
end

