-- ==== Sys2Proof/Decode.lean ====
section
/-! DEFINITION. Sys2Proof/Decode.lean: the decoder of 30_encoding.md rule R89, total on every command word and rejecting
by name, and after it the encoder of rule R93, written from the field tables of rules R81 to R85. -/

namespace Sys2Proof

/-- Why a command word is no instruction. -/
inductive DecodeError where
  /-- OPC is 0x0 or 0x4 to 0xF (rule R87). The engine accepts such a command and completes it with IllegalCommand. -/
  | illegalOpcode (opc : BitVec 4)
  deriving DecidableEq, Repr

/-- OPC, `cmd[3:0]` (rule R83). -/
def opcField (cmd : Word) : BitVec 4 := cmd.extractLsb' 0 4

/-- KEYWORDS, `cmd[11:8]`, an unsigned number (rule R85). -/
def keywordsField (cmd : Word) : BitVec 4 := cmd.extractLsb' 8 4

/-- KEYBITS, `cmd[31:16]`, an unsigned number "taken as it stands" (rule R84). -/
def keybitsField (cmd : Word) : BitVec 16 := cmd.extractLsb' 16 16

/-- The decoder of rule R89: OPC alone selects the command, and reserved bits are ignored (rule R86). -/
def decode (cmd : Word) : Except DecodeError Instr :=
  if opcField cmd = 0x1 then .ok (.init (keybitsField cmd).toNat (keywordsField cmd).toNat)
  else if opcField cmd = 0x2 then .ok .encrypt
  else if opcField cmd = 0x3 then .ok .decrypt
  else .error (.illegalOpcode (opcField cmd))

/-- Each command's OPC value (rule R83). -/
def opcode : Instr → BitVec 4
  | .init _ _ => 0x1
  | .encrypt => 0x2
  | .decrypt => 0x3

/-- The command word of an instruction, all reserved bits 0 (rules R81, R82, R93). -/
def encode : Instr → Word
  | .init keybits keywords =>
    BitVec.ofNat 16 keybits ++ 0#4 ++ BitVec.ofNat 4 keywords ++ 0#4 ++ opcode (.init keybits keywords)
  | .encrypt => 0#28 ++ opcode .encrypt
  | .decrypt => 0#28 ++ opcode .decrypt

/-- A command word with its reserved bits cleared: format K reserves 15:12 and 7:4, format B reserves 31:4 (rules R81,
R82, R86). An illegal word has no fields, and stays as it is. -/
def clearReserved (cmd : Word) : Word :=
  if opcField cmd = 0x1 then cmd &&& 0xFFFF0F0F
  else if opcField cmd = 0x2 ∨ opcField cmd = 0x3 then cmd &&& 0x0000000F
  else cmd

/-- Pseudo-command INIT128 (rule R94). -/
def init128 : Instr := .init 128 4

/-- Pseudo-command INIT192 (rule R94). -/
def init192 : Instr := .init 192 6

/-- Pseudo-command INIT256 (rule R94). -/
def init256 : Instr := .init 256 8

/-- The command word whose low `nbits` bits are those of `w` and whose other bits are 0. Every command is one 32-bit
word (rule R80), so a table row's bit numbers are the command word's. -/
def tableWord (nbits w : Nat) : Word := BitVec.ofNat 32 (w % 2 ^ nbits)

/-- What the decoder reads from a table row's word. -/
def decodeTableWord (nbits w : Nat) : Option Instr :=
  match decode (tableWord nbits w) with
  | .ok i => some i
  | .error _ => none

end Sys2Proof
end

