-- ==== Sys2Proof/Config.lean ====
section
/-! DEFINITION. Sys2Proof/Config.lean: the parameters that 00_scope.md rule R8 leaves to the platform and the
implementation. Each rests on an opaque constant, so a claim about the model holds for every value the rule admits. -/

namespace Sys2Proof

/-- Which 0x100-byte window of the host's bus the platform gives the engine (rules R8, R51): any number. -/
opaque Config.windowIndex : Nat

/-- `ENGINE_BASE`, the bus address of register offset 0x00: a multiple of 0x100 by its form (rules R8, R51). -/
def Config.engineBase : Nat := 0x100 * Config.windowIndex

/-- What `LAT_INIT` exceeds its least admitted value by (rule R8): any number. -/
opaque Config.latInitExcess : Nat

/-- `LAT_INIT`, at least one engine step (rules R8, R238). The model is untimed, and no definition reads it. -/
def Config.latInit : Nat := Config.latInitExcess + 1

/-- What `LAT_BLOCK` exceeds its least admitted value by (rule R8): any number. -/
opaque Config.latBlockExcess : Nat

/-- `LAT_BLOCK`, at least one engine step (rules R8, R238). The model is untimed, and no definition reads it. -/
def Config.latBlock : Nat := Config.latBlockExcess + 1

end Sys2Proof
end

