-- ==== Sys2Proof/Machine/Bits.lean ====
section
/-! DEFINITION. Sys2Proof/Machine/Bits.lean: the byte and word views of a 128-bit value and the rotations (00_scope.md
rules R10 to R12). -/

namespace Sys2Proof.Machine

/-- `byte(v, i) = v[127-8i : 120-8i]`, for i = 0..15; byte 0 is the most significant (rule R10). -/
def byteAt (v : Block) (i : Nat) : Byte := v.extractLsb' (120 - 8 * i) 8

/-- `x0 ‖ x1 ‖ ... ‖ x15` (rule R10). -/
def blockOfBytes (x : Nat → Byte) : Block :=
  x 0 ++ x 1 ++ x 2 ++ x 3 ++ x 4 ++ x 5 ++ x 6 ++ x 7 ++ x 8 ++ x 9 ++ x 10 ++ x 11 ++ x 12 ++ x 13 ++ x 14 ++ x 15

/-- `word(v, i) = v[127-32i : 96-32i]`, for i = 0..3; word 0 is the most significant (rule R11). -/
def wordAt (v : Block) (i : Nat) : Word := v.extractLsb' (96 - 32 * i) 32

/-- `w0 ‖ w1 ‖ w2 ‖ w3` (rule R11). -/
def blockOfWords (w0 w1 w2 w3 : Word) : Block := w0 ++ w1 ++ w2 ++ w3

/-- `v >>> n`, the rotation right, for 0 ≤ n < 128 (rule R12). -/
def ror (v : Block) (n : Nat) : Block := (v >>> n) ||| (v <<< (128 - n))

/-- `v <<< n`, the rotation left, for 0 < n < 128: `v >>> (128 - n)` (rule R12). -/
def rol (v : Block) (n : Nat) : Block := ror v (128 - n)

end Sys2Proof.Machine
end

