-- ==== Sys2Proof/Machine/State.lean ====
section
/-! DEFINITION. Sys2Proof/Machine/State.lean: the engine's state record (10_state.md rule R20), the events that reach
the engine from outside (20_memory.md, 70_reset_and_hazards.md), the reasons a step can stop, and reset (rule R41).

STATUS is not stored whole. Its fields BUSY, CTX_VALID, KEYSIZE and ROUNDS always equal a view of PENDING and CTX (rules
R27, R29, R32, R33), so State stores DONE, ERR and OVR, and Machine/Flags.lean computes the register. CMD holds no value
(rule R25), and the constant tables are not state (rule R40). -/

namespace Sys2Proof.Machine

/-- The key sizes a context can have (rule R35). -/
inductive KeySize where
  | k128
  | k192
  | k256
  deriving DecidableEq, Repr

/-- The round counts a context can have; zero when there is no context (rules R33, R35). -/
inductive RoundCount where
  | zero
  | thirteen
  | fifteen
  | seventeen
  deriving DecidableEq, Repr

/-- What STATUS.ERR can say. Codes 4 to 15 "are never produced", so no name stands for one (rules R26, R200). -/
inductive ErrCode where
  /-- Code 0. -/
  | noError
  /-- Code 1 (rule R201). -/
  | invalidKeyLength
  /-- Code 2 (rule R202). -/
  | noContext
  /-- Code 3 (rule R203). -/
  | illegalCommand
  deriving DecidableEq, Repr

/-- The cipher-context slot CTX, with the fields of rule R35. That they agree with each other is an invariant (rule
R36), defined in Safety.lean. -/
structure Context where
  valid : Bool
  keybits : Option KeySize
  rounds : RoundCount
  ek : Vector Block 17
  dk : Vector Block 17
  deriving DecidableEq, Repr

/-- The snapshot PENDING holds of the accepted command (rule R38). -/
structure Snapshot where
  cmd : Word
  key : Vector Word 8
  din : Vector Word 4
  deriving DecidableEq, Repr

/-- The registers of the window, by the names of the register map (20_memory.md rule R52). -/
inductive Reg where
  | cmd
  | status
  | key (i : Fin 8)
  | din (i : Fin 4)
  | dout (i : Fin 4)
  deriving DecidableEq, Repr

/-- What a host access does. The engine takes 32-bit data only; the datum of a write of another width is never looked
at, because the access is rejected (rule R53). -/
inductive AccessKind where
  | read
  | write (v : Word)
  deriving DecidableEq, Repr

/-- One host access: who makes it, its bus address, its width in bytes, and what it does (rules R13, R53). The engine
cannot tell hosts apart (rule R210): `host` only says whose access a reply answers. -/
structure Access where
  host : Nat
  addr : Nat
  width : Nat
  kind : AccessKind
  deriving DecidableEq, Repr

/-- What the host sees of one access. -/
inductive Answer where
  /-- A read's value (rule R58). -/
  | data (v : Word)
  /-- A write was taken by the engine; what it did is rule R57's. -/
  | written
  /-- BusError (rule R204): the access is rejected, and the engine's state does not change. -/
  | busError
  /-- The address lies outside the window, so the engine does not decode it and gives no response (rule R51). -/
  | notDecoded
  deriving DecidableEq, Repr

/-- One access with its answer. -/
structure Reply where
  access : Access
  answer : Answer
  deriving DecidableEq, Repr

/-- What can happen next in the total order of host accesses and engine steps (rule R63), and reset (rule R230). -/
inductive Event where
  /-- A host access. -/
  | access (a : Access)
  /-- The engine step EngineStep, enabled iff a command is pending (rule R92). -/
  | engineStep
  /-- Host `host` runs the loop WAIT: it reads STATUS until BUSY = 0 (rule R95). -/
  | wait (host : Nat)
  /-- The reset event, driven by the platform (rule R230). -/
  | reset
  deriving DecidableEq, Repr

/-- The engine's state (rule R20), and the model's own two fields for the outside world. -/
structure State where
  /-- `KEY[0..7]` (rule R22). -/
  key : Vector Word 8
  /-- `DIN[0..3]` (rule R23). -/
  din : Vector Word 4
  /-- `DOUT[0..3]` (rule R24). -/
  dout : Vector Word 4
  /-- `STATUS.DONE` (rule R28). -/
  done : Bool
  /-- `STATUS.ERR` (rule R30). -/
  err : ErrCode
  /-- `STATUS.OVR` (rule R31). -/
  ovr : Bool
  /-- `CTX` (rule R35). -/
  ctx : Context
  /-- `PENDING` (rule R38). -/
  pending : Option Snapshot
  /-- The model's own: the events still to reach the engine, in their order (rule R63). It is an input, fixed from
  outside. -/
  script : List Event
  /-- The model's own: the answers to the accesses made so far, oldest first. Rule R240's observation takes the
  values read and the BusErrors from it (Safety.lean), and nothing of a write's datum. Of a WAIT it holds the last poll's answer only, so that it does not tell how many polls
  the WAIT made. -/
  replies : List Reply
  deriving DecidableEq, Repr

/-- Why the machine stops. -/
inductive Fault where
  /-- Raised by the meanings execInit, execEncrypt and execDecrypt at a state where no command is pending: the engine
  step "is enabled exactly when PENDING ≠ none" (rule R92), so there is no such step to describe. `step` never raises
  it. Safe: it only stops where the engine has no behaviour. -/
  | engineStepNotEnabled
  deriving DecidableEq, Repr

/-- Why an instruction has no meaning. -/
inductive Refusal where
  /-- Raised by exec's arm for an instruction whose meaning is not written yet; no arm does so in this model. Safe: it
  stops. -/
  | notModelled (mnemonic : String)
  deriving DecidableEq, Repr

/-- CTX after reset: no context, and both tables zero (rule R41). -/
def Context.reset : Context where
  valid := false
  keybits := none
  rounds := .zero
  ek := Vector.replicate 17 0
  dk := Vector.replicate 17 0

/-- The machine right after reset (rule R41): every register 0, no context, no pending command. Nothing has reached the
engine and nothing is on its way. -/
def State.reset : State where
  key := Vector.replicate 8 0
  din := Vector.replicate 4 0
  dout := Vector.replicate 4 0
  done := false
  err := .noError
  ovr := false
  ctx := Context.reset
  pending := none
  script := []
  replies := []

end Sys2Proof.Machine
end

