-- ==== Sys2Proof/Machine/Operands.lean ====
section
/-! DEFINITION. Sys2Proof/Machine/Operands.lean: where the commands find their operands. INIT tests its two numbers and
reads the snapshot's key words (44_key_schedule.md rules R151, R152); ENCRYPT and DECRYPT read the snapshot's block and
the context's key tables (45_block_transform.md rules R180, R181). -/

namespace Sys2Proof.Machine

/-- The key size KEYBITS asks for, or none when it is not 128, 192 or 256 (rule R151's first test). -/
def supportedKeySize (keybits : Nat) : Option KeySize :=
  if keybits = 128 then some .k128
  else if keybits = 192 then some .k192
  else if keybits = 256 then some .k256
  else none

/-- A key size in bits. -/
def keyBits : KeySize → Nat
  | .k128 => 128
  | .k192 => 192
  | .k256 => 256

/-- The number of 32-bit words INIT reads: n = KEYBITS / 32 (rule R150). -/
def keyWords (size : KeySize) : Nat := keyBits size / 32

/-- The key size INIT accepts for its two operands, or none: KEYBITS first, and only then KEYWORDS ≥ KEYBITS / 32
(rule R151). -/
def acceptedKeySize (keybits keywords : Nat) : Option KeySize :=
  match supportedKeySize keybits with
  | none => none
  | some size => if keywords < keyWords size then none else some size

/-- KL, the first 128 bits of the master key (rule R152). -/
def padLeft (key : Vector Word 8) : Block := blockOfWords key[0] key[1] key[2] key[3]

/-- KR, the remaining key bits, zero-padded to 128 bits (rule R152). -/
def padRight (size : KeySize) (key : Vector Word 8) : Block :=
  match size with
  | .k128 => 0
  | .k192 => blockOfWords key[4] key[5] 0 0
  | .k256 => blockOfWords key[4] key[5] key[6] key[7]

/-- The input block, `din[0] ‖ din[1] ‖ din[2] ‖ din[3]` (rules R23, R61). -/
def inputBlock (din : Vector Word 4) : Block := blockOfWords din[0] din[1] din[2] din[3]

/-- The four output words of a result (rule R189). -/
def outputWords (y : Block) : Vector Word 4 := #v[wordAt y 0, wordAt y 1, wordAt y 2, wordAt y 3]

/-- A round count as a number (rule R35). -/
def roundNumber : RoundCount → Nat
  | .zero => 0
  | .thirteen => 13
  | .fifteen => 15
  | .seventeen => 17

/-- Entry i of a round-key table. Every index a command uses is below 17 (rules R158, R185). -/
def keyAt (table : Vector Block 17) (i : Nat) : Block := table.getD i 0

end Sys2Proof.Machine
end

