-- ==== Sys2Proof/Machine/Flags.lean ====
section
/-! DEFINITION. Sys2Proof/Machine/Flags.lean: the fields of STATUS and the register as a host reads it (10_state.md rules
R26 to R33). The engine has no other flags (rule R34). -/

namespace Sys2Proof.Machine

/-- BUSY: "1 exactly while PENDING holds a command" (rule R27). -/
def busy (s : State) : Bool := s.pending.isSome

/-- The code of an error (rule R200). -/
def errCode : ErrCode → BitVec 4
  | .noError => 0
  | .invalidKeyLength => 1
  | .noContext => 2
  | .illegalCommand => 3

/-- KEYSIZE, the code of the context's key size (rule R32). -/
def keySizeCode (c : Context) : BitVec 2 :=
  match c.valid, c.keybits with
  | true, some .k128 => 1
  | true, some .k192 => 2
  | true, some .k256 => 3
  | true, none => 0
  | false, _ => 0

/-- ROUNDS, the context's round count (rule R33). -/
def roundsCode (c : Context) : BitVec 5 := BitVec.ofNat 5 (roundNumber c.rounds)

/-- STATUS as a host reads it, bit 31 first; reserved bits read 0 (rule R26). -/
def statusWord (s : State) : Word :=
  0#11 ++ roundsCode s.ctx ++ 0#5 ++ keySizeCode s.ctx ++ BitVec.ofBool s.ovr ++ errCode s.err ++ 0#1 ++
    BitVec.ofBool s.ctx.valid ++ BitVec.ofBool s.done ++ BitVec.ofBool (busy s)

end Sys2Proof.Machine
end

