-- ==== Sys2Proof/Machine/Ops.lean ====
section
/-! DEFINITION. Sys2Proof/Machine/Ops.lean: the named updates of the state. Every change a command, a host access or a
reset makes goes through one of them. Raising an error is `raiseError`, the engine's only form of an exception
(60_exceptions.md rule R206); there is no return from one (rule R208). -/

namespace Sys2Proof.Machine

/-- `KEY[i] <- v` (20_memory.md rule R57). -/
def writeKey (i : Fin 8) (v : Word) (s : State) : State := { s with key := s.key.set i v }

/-- `DIN[i] <- v` (rule R57). -/
def writeDin (i : Fin 4) (v : Word) (s : State) : State := { s with din := s.din.set i v }

/-- A command is accepted: PENDING takes the snapshot, which sets BUSY, and DONE and ERR become 0 (rules R38, R57). -/
def acceptCommand (cmd : Word) (s : State) : State :=
  { s with pending := some { cmd := cmd, key := s.key, din := s.din }, done := false, err := .noError }

/-- A command written while busy is dropped, and OVR is set (rules R31, R57, R205). -/
def dropCommand (s : State) : State := { s with ovr := true }

/-- A STATUS write clears OVR if its bit 8 is 1, and does nothing else (rules R31, R57). -/
def writeStatus (v : Word) (s : State) : State := if v.getLsbD 8 then { s with ovr := false } else s

/-- `raise E`: E's code is written to ERR. Control is transferred nowhere, and nothing is saved (rules R13, R92, R206). -/
def raiseError (e : ErrCode) (s : State) : State := { s with err := e }

/-- A command that succeeds writes ERR 0 (10_state.md rule R30). -/
def reportSuccess (s : State) : State := { s with err := .noError }

/-- The common completion, "also after a raise": PENDING becomes none, which clears BUSY, and DONE becomes 1 (rule
R92). -/
def completeCommand (s : State) : State := { s with pending := none, done := true }

/-- A successful INIT writes the whole context as one atomic update (44_key_schedule.md rule R160). -/
def commitContext (c : Context) (s : State) : State := { s with ctx := c }

/-- A transform's result is written to DOUT, all four words at once (45_block_transform.md rule R189). -/
def writeResult (y : Block) (s : State) : State := { s with dout := outputWords y }

/-- The reset event sets every component of the engine to its reset value (70_reset_and_hazards.md rule R230). What is
on its way to the engine, and what the hosts have seen, are not the engine's. -/
def resetEngine (s : State) : State := { State.reset with script := s.script, replies := s.replies }

/-- The answer to an access reaches its host. -/
def recordReply (r : Reply) (s : State) : State := { s with replies := s.replies ++ [r] }

/-- The rest of the events. -/
def setScript (es : List Event) (s : State) : State := { s with script := es }

end Sys2Proof.Machine
end

