-- ==== Sys2Proof/Machine/Bus.lean ====
section
/-! DEFINITION. Sys2Proof/Machine/Bus.lean: the register window and the host's accesses to it (20_memory.md). -/

namespace Sys2Proof.Machine

/-- Offset of KEY[0] (rule R52). -/
def keyOffset : Nat := 0x10

/-- Offset of DIN[0] (rule R52). -/
def dinOffset : Nat := 0x30

/-- Offset of DOUT[0] (rule R52). -/
def doutOffset : Nat := 0x40

/-- The register map (rule R52): each mapped offset with its register. -/
def registerMap : List (Nat × Reg) :=
  [(0x00, .cmd), (0x04, .status)] ++ (List.finRange 8).map (fun i => (keyOffset + 4 * i.val, Reg.key i)) ++
    (List.finRange 4).map (fun i => (dinOffset + 4 * i.val, Reg.din i)) ++
    (List.finRange 4).map (fun i => (doutOffset + 4 * i.val, Reg.dout i))

/-- The register an access of `width` bytes at offset `off` reaches, or none where BusError answers it: another width
than 4 (rule R53), a misaligned offset (rule R54), an unmapped one (rule R55). -/
def selectReg (width off : Nat) : Option Reg :=
  if width = 4 ∧ off % 4 = 0 then registerMap.lookup off else none

/-- The value a host read of a register returns; CMD and KEY are write-only and read 0 (rule R58). -/
def readReg (r : Reg) (s : State) : Word :=
  match r with
  | .cmd => 0
  | .status => statusWord s
  | .key _ => 0
  | .din i => s.din[i]
  | .dout i => s.dout[i]

/-- A host write of CMD issues a command: accepted when the engine is idle, dropped when it is busy (rule R57). -/
def issueCommand (v : Word) (s : State) : State := if busy s then dropCommand s else acceptCommand v s

/-- The effect of a host write of a register: `HostWrite` (rule R57). DOUT is read-only, and a write of it is ignored. -/
def writeReg (r : Reg) (v : Word) (s : State) : State :=
  match r with
  | .cmd => issueCommand v s
  | .status => writeStatus v s
  | .key i => writeKey i v s
  | .din i => writeDin i v s
  | .dout _ => s

/-- An access at an offset of the window: its answer (rules R53 to R55, R58). -/
def answerAt (off : Nat) (a : Access) (s : State) : Answer :=
  match selectReg a.width off, a.kind with
  | none, _ => .busError
  | some r, .read => .data (readReg r s)
  | some _, .write _ => .written

/-- An access at an offset of the window: its effect. A read has none (rule R56), and a rejected access has none (rule
R204). -/
def effectAt (off : Nat) (a : Access) (s : State) : State :=
  match selectReg a.width off, a.kind with
  | none, _ => s
  | some _, .read => s
  | some r, .write v => writeReg r v s

/-- Whether a bus address lies in the engine's window (rules R50, R51). -/
abbrev inWindow (addr : Nat) : Prop := Config.engineBase ≤ addr ∧ addr ≤ Config.engineBase + 0xFF

/-- The answer to a host access. An address outside the window is not decoded (rule R51). -/
def accessAnswer (a : Access) (s : State) : Answer :=
  if inWindow a.addr then answerAt (a.addr - Config.engineBase) a s else .notDecoded

/-- The effect of a host access on the engine. -/
def accessEffect (a : Access) (s : State) : State :=
  if inWindow a.addr then effectAt (a.addr - Config.engineBase) a s else s

/-- A host access, in one atomic step (rules R56, R57, R60): its effect, and its answer to the host. -/
def performAccess (a : Access) (s : State) : State :=
  recordReply { access := a, answer := accessAnswer a s } (accessEffect a s)

/-- `RD off` by `host`: `MemRead(ENGINE_BASE + off, 4)` (30_encoding.md rule R95). -/
def readAccess (host off : Nat) : Access :=
  { host := host, addr := Config.engineBase + off, width := 4, kind := .read }

/-- `WR off, v` by `host`: `MemWrite(ENGINE_BASE + off, 4, v)` (rules R59, R95). -/
def writeAccess (host off : Nat) (v : Word) : Access :=
  { host := host, addr := Config.engineBase + off, width := 4, kind := .write v }

end Sys2Proof.Machine
end

