-- ==== Sys2Proof/Machine/Datapath.lean ====
section
/-! DEFINITION. Sys2Proof/Machine/Datapath.lean: the combinational functions that the commands share, each total on its
full input width (00_scope.md rule R14): the diffusion layer A (41_diffusion.md), the substitution layers SL1 and SL2
(42_substitution.md) and the round functions FO and FE (43_round_function.md). -/

namespace Sys2Proof.Machine

/-- The equations of rule R121: line i lists the indices j of the input bytes x_j whose XOR is output byte y_i. It is
also the matrix of rule R122, row by row. -/
def diffusionRows : List (List Nat) := [
  [3, 4, 6, 8, 9, 13, 14],
  [2, 5, 7, 8, 9, 12, 15],
  [1, 4, 6, 10, 11, 12, 15],
  [0, 5, 7, 10, 11, 13, 14],
  [0, 2, 5, 8, 11, 14, 15],
  [1, 3, 4, 9, 10, 14, 15],
  [0, 2, 7, 9, 10, 12, 13],
  [1, 3, 6, 8, 11, 12, 13],
  [0, 1, 4, 7, 10, 13, 15],
  [0, 1, 5, 6, 11, 12, 14],
  [2, 3, 5, 6, 8, 13, 15],
  [2, 3, 4, 7, 9, 12, 14],
  [1, 2, 6, 7, 9, 11, 12],
  [0, 3, 6, 7, 8, 10, 13],
  [0, 3, 4, 5, 9, 11, 14],
  [1, 2, 4, 5, 8, 10, 15]]

/-- The XOR of the input bytes x_j for j in `js`. -/
def xorBytes (x : Block) : List Nat → Byte
  | [] => 0
  | j :: js => byteAt x j ^^^ xorBytes x js

/-- The diffusion layer `A` (rules R120, R121). -/
def diffuse (x : Block) : Block := blockOfBytes fun i => xorBytes x (diffusionRows.getD i [])

/-- SL1's table at lane i (rule R130). -/
def sl1Table (i : Nat) : Table :=
  if i % 4 = 0 then sb1 else if i % 4 = 1 then sb2 else if i % 4 = 2 then sb3 else sb4

/-- SL2's table at lane i (rule R131). -/
def sl2Table (i : Nat) : Table :=
  if i % 4 = 0 then sb3 else if i % 4 = 1 then sb4 else if i % 4 = 2 then sb1 else sb2

/-- Each byte lane through its own table. -/
def substitute (table : Nat → Table) (x : Block) : Block := blockOfBytes fun i => lookup (table i) (byteAt x i)

/-- Substitution layer SL1 (rule R130). -/
def sl1 (x : Block) : Block := substitute sl1Table x

/-- Substitution layer SL2 (rule R131). -/
def sl2 (x : Block) : Block := substitute sl2Table x

/-- F-odd: `FO(D, RK) = A(SL1(D ⊕ RK))` (rule R140). -/
def fo (d rk : Block) : Block := diffuse (sl1 (d ^^^ rk))

/-- F-even: `FE(D, RK) = A(SL2(D ⊕ RK))` (rule R141). -/
def fe (d rk : Block) : Block := diffuse (sl2 (d ^^^ rk))

end Sys2Proof.Machine
end

