-- ==== Sys2Proof/Machine/BlockTransform.lean ====
section
/-! DEFINITION. Sys2Proof/Machine/BlockTransform.lean: the block transform and the commands ENCRYPT and DECRYPT
(45_block_transform.md). They are one algorithm with two key tables (rule R186). -/

namespace Sys2Proof.Machine

/-- Round r of the transform: F-odd if r is odd, F-even if r is even, with key K[r-1] (rules R183, R185). -/
def roundStep (k : Vector Block 17) (r : Nat) (p : Block) : Block :=
  if r % 2 = 1 then fo p (keyAt k (r - 1)) else fe p (keyAt k (r - 1))

/-- The working value P after rounds 1 to n (rule R182). -/
def runRounds (k : Vector Block 17) : Nat → Block → Block
  | 0, p => p
  | n + 1, p => roundStep k (n + 1) (runRounds k n p)

/-- The final step, which has no diffusion: `SL2(P ⊕ K[R-2]) ⊕ K[R-1]` (rule R184). -/
def finalStep (r : Nat) (k : Vector Block 17) (p : Block) : Block := sl2 (p ^^^ keyAt k (r - 2)) ^^^ keyAt k (r - 1)

/-- `Transform(R, K, Pin)` (rule R182). Every context that is used has R = 13, 15 or 17 (10_state.md rule R36). -/
def transform (r : Nat) (k : Vector Block 17) (pin : Block) : Block := finalStep r k (runRounds k (r - 2) pin)

/-- What ENCRYPT and DECRYPT share: with no context they raise NoContext (rule R188), else the transform of the
snapshot's block under `table` goes to DOUT (rules R180, R181, R189). The common completion is rule R92's. -/
def runTransform (table : Context → Vector Block 17) (s : State) : Host.Outcome State Fault Refusal :=
  match s.pending with
  | none => .fault .engineStepNotEnabled
  | some p =>
    if s.ctx.valid then
      .next (completeCommand (reportSuccess
        (writeResult (transform (roundNumber s.ctx.rounds) (table s.ctx) (inputBlock p.din)) s)))
    else .next (completeCommand (raiseError .noContext s))

/-- ENCRYPT (rule R180): the encryption key table. -/
def execEncrypt (s : State) : Host.Outcome State Fault Refusal := runTransform Context.ek s

/-- DECRYPT (rule R181): the decryption key table. -/
def execDecrypt (s : State) : Host.Outcome State Fault Refusal := runTransform Context.dk s

end Sys2Proof.Machine
end

