-- ==== Sys2Proof/Machine/KeySchedule.lean ====
section
/-! DEFINITION. Sys2Proof/Machine/KeySchedule.lean: the key schedule and the command INIT (44_key_schedule.md). -/

namespace Sys2Proof.Machine

/-- The three round constants (CK1, CK2, CK3), selected by key size (rule R153). -/
def roundConstants : KeySize → Block × Block × Block
  | .k128 => (c1, c2, c3)
  | .k192 => (c2, c3, c1)
  | .k256 => (c3, c1, c2)

/-- The round count, selected by key size (rule R153). -/
def roundCountOf : KeySize → RoundCount
  | .k128 => .thirteen
  | .k192 => .fifteen
  | .k256 => .seventeen

/-- W1 of rule R154. -/
def scheduleW1 (kl kr ck1 : Block) : Block := fo kl ck1 ^^^ kr

/-- W2 of rule R154. -/
def scheduleW2 (w0 w1 ck2 : Block) : Block := fe w1 ck2 ^^^ w0

/-- W3 of rule R154. -/
def scheduleW3 (w1 w2 ck3 : Block) : Block := fo w2 ck3 ^^^ w1

/-- The 17 encryption round keys (rules R155, R157). -/
def expandKeys (w0 w1 w2 w3 : Block) : Vector Block 17 := #v[
  w0 ^^^ ror w1 19,
  w1 ^^^ ror w2 19,
  w2 ^^^ ror w3 19,
  ror w0 19 ^^^ w3,
  w0 ^^^ ror w1 31,
  w1 ^^^ ror w2 31,
  w2 ^^^ ror w3 31,
  ror w0 31 ^^^ w3,
  w0 ^^^ rol w1 61,
  w1 ^^^ rol w2 61,
  w2 ^^^ rol w3 61,
  rol w0 61 ^^^ w3,
  w0 ^^^ rol w1 31,
  w1 ^^^ rol w2 31,
  w2 ^^^ rol w3 31,
  rol w0 31 ^^^ w3,
  w0 ^^^ rol w1 19]

/-- The encryption round keys of a master key (rules R152 to R155). -/
def encryptionKeys (size : KeySize) (key : Vector Word 8) : Vector Block 17 :=
  let w0 := padLeft key
  let w1 := scheduleW1 w0 (padRight size key) (roundConstants size).1
  let w2 := scheduleW2 w0 w1 (roundConstants size).2.1
  let w3 := scheduleW3 w1 w2 (roundConstants size).2.2
  expandKeys w0 w1 w2 w3

/-- Entry i of the decryption key table, R the round count (rules R158, R159). -/
def decryptionKey (ek : Vector Block 17) (r i : Nat) : Block :=
  if i = 0 then keyAt ek (r - 1)
  else if i + 2 ≤ r then diffuse (keyAt ek (r - 1 - i))
  else if i + 1 = r then keyAt ek 0
  else 0

/-- The decryption key table (rules R158, R159). -/
def decryptionKeys (ek : Vector Block 17) (r : Nat) : Vector Block 17 := Vector.ofFn fun i => decryptionKey ek r i

/-- The context of a master key (rules R150, R160). -/
def buildContext (size : KeySize) (key : Vector Word 8) : Context where
  valid := true
  keybits := some size
  rounds := roundCountOf size
  ek := encryptionKeys size key
  dk := decryptionKeys (encryptionKeys size key) (roundNumber (roundCountOf size))

/-- INIT (rule R150), with the common completion of 30_encoding.md rule R92. A key length that rule R151 rejects raises
InvalidKeyLength before any key-schedule work, and leaves CTX as it is (rule R161). -/
def execInit (keybits keywords : Nat) (s : State) : Host.Outcome State Fault Refusal :=
  match s.pending with
  | none => .fault .engineStepNotEnabled
  | some p =>
    match acceptedKeySize keybits keywords with
    | none => .next (completeCommand (raiseError .invalidKeyLength s))
    | some size => .next (completeCommand (reportSuccess (commitContext (buildContext size p.key) s)))

end Sys2Proof.Machine
end

