-- ==== Sys2Proof/Machine/Events.lean ====
section
/-! DEFINITION. Sys2Proof/Machine/Events.lean: what each event of the total order of host accesses and engine steps does
(20_memory.md rule R63, 30_encoding.md rule R92, 70_reset_and_hazards.md rule R230). -/

namespace Sys2Proof.Machine

/-- An illegal command changes nothing but STATUS.BUSY, DONE and ERR (rules R87, R203). -/
def completeIllegal (s : State) : State := completeCommand (raiseError .illegalCommand s)

/-- EngineStep (rule R92): it completes the pending command. While PENDING = none it is not enabled, the engine is idle,
and all state is kept (rule R215). -/
def engineStep (s : State) : Host.Outcome State Fault Refusal :=
  match s.pending with
  | none => .next s
  | some p =>
    match decode p.cmd with
    | .ok i => exec i s
    | .error _ => .next (completeIllegal s)

/-- One turn of the loop WAIT (rule R95): a read of STATUS. While it shows BUSY = 1 the loop goes on, and the engine
step, which is enabled, is taken before the next turn (rule R239; assumption log entry 3). Such a turn leaves nothing
behind: the read has no side effect (rule R56), the next turn's value takes the place of its value, and how many polls a
WAIT made is not observed (rule R240). The turn that ends the loop is an access like any other, with its reply. -/
def pollStatus (host : Nat) (s : State) : State :=
  if busy s then setScript (.engineStep :: .wait host :: s.script) s else performAccess (readAccess host 0x04) s

/-- What an event does. -/
def runEvent (e : Event) (s : State) : Host.Outcome State Fault Refusal :=
  match e with
  | .access a => .next (performAccess a s)
  | .engineStep => engineStep s
  | .wait host => .next (pollStatus host s)
  | .reset => .next (resetEngine s)

end Sys2Proof.Machine
end

