-- ==== Sys2Proof/Machine/HostProgram.lean ====
section
/-! DEFINITION. Sys2Proof/Machine/HostProgram.lean: the host operations of 30_encoding.md rule R95 as the events they
expand to. A host program is the list of these events, one operation after another; what a host does with the values it
reads is the host's business (rule R190). -/

namespace Sys2Proof.Machine

/-- `WR off, v`. -/
def hostWr (host off : Nat) (v : Word) : List Event := [.access (writeAccess host off v)]

/-- `RD off`. The value read is in the reply. -/
def hostRd (host off : Nat) : List Event := [.access (readAccess host off)]

/-- `.cmd v`, any raw command word: `WR 0x00, v` (rules R93, R95). -/
def hostRawCmd (host : Nat) (v : Word) : List Event := hostWr host 0x00 v

/-- `CMD c`: `WR 0x00, word(c)`. -/
def hostCmd (host : Nat) (c : Instr) : List Event := hostRawCmd host (encode c)

/-- `WR off, w0`, `WR off+4, w1`, and so on. -/
def hostWrWords (host off : Nat) : List Word → List Event
  | [] => []
  | w :: ws => hostWr host off w ++ hostWrWords host (off + 4) ws

/-- `LDKEY k0, ..., kn`, for n ≤ 7. -/
def hostLdKey (host : Nat) (words : List Word) : List Event := hostWrWords host keyOffset words

/-- `LDBLK w0, w1, w2, w3`. -/
def hostLdBlk (host : Nat) (w0 w1 w2 w3 : Word) : List Event := hostWrWords host dinOffset [w0, w1, w2, w3]

/-- `RDBLK`: `RD 0x40` to `RD 0x4C`. -/
def hostRdBlk (host : Nat) : List Event :=
  hostRd host doutOffset ++ hostRd host (doutOffset + 4) ++ hostRd host (doutOffset + 8) ++
    hostRd host (doutOffset + 12)

/-- `WAIT`. -/
def hostWait (host : Nat) : List Event := [.wait host]

/-- `CLROVR`: `WR 0x04, 0x00000100`. -/
def hostClrOvr (host : Nat) : List Event := hostWr host 0x04 0x00000100

end Sys2Proof.Machine
end

