-- ==== Sys2Proof/Machine/Step.lean ====
section
/-! DEFINITION. Sys2Proof/Machine/Step.lean: one step of the machine. The engine fetches no instruction (20_memory.md
rule R62): the instruction a step runs is the command PENDING holds. -/

namespace Sys2Proof.Machine

/-- The next event of the script takes place. When the script is empty no host makes an access any more, and the engine
step is taken (rule R239). -/
def step (s : State) : Host.Outcome State Fault Refusal :=
  match s.script with
  | [] => engineStep s
  | e :: rest => runEvent e (setScript rest s)

/-- The state in which the command of a table row's word has just been accepted, with the engine step as the next event:
the very next step runs that command on KEY and DIN as they are. -/
def State.withFetchWord (s : State) (nbits w : Nat) : State :=
  setScript (.engineStep :: s.script) (acceptCommand (tableWord nbits w) s)

end Sys2Proof.Machine
end

