-- ==== Sys2Proof/Safety.lean ====
section
/-! DEFINITION. Sys2Proof/Safety.lean: the terms in which claims speak: what the engine's state always satisfies
(10_state.md rules R24, R28, R29, R36, R37, R41; 20_memory.md rule R57), what a host observes at the end of a run
(70_reset_and_hazards.md rule R240), and the reading of an outcome. -/

namespace Sys2Proof.Machine

/-- Rule R36: with no context there is no key size and no round count; with one, the pair is (128, 13), (192, 15) or
(256, 17). -/
abbrev Context.consistent (c : Context) : Prop :=
  (c.valid = false → c.keybits = none ∧ c.rounds = .zero) ∧
  (c.valid = true → c.keybits = some .k128 ∧ c.rounds = .thirteen ∨ c.keybits = some .k192 ∧ c.rounds = .fifteen ∨
    c.keybits = some .k256 ∧ c.rounds = .seventeen)

/-- The tables belong together: with a context, DK is what rules R158 and R159 derive from EK; with none, both are zero
(rule R41). -/
abbrev Context.tablesAgree (c : Context) : Prop :=
  if c.valid then c.dk = decryptionKeys c.ek (roundNumber c.rounds) else c.ek = Context.reset.ek ∧ c.dk = Context.reset.dk

/-- While a command is pending, DONE and ERR read 0 (rules R57, R234). -/
abbrev State.pendingClean (s : State) : Prop := s.pending.isSome = true → s.done = false ∧ s.err = .noError

/-- With no context there has been no result, and NoContext is reported only with no context (rules R24, R29, R202). -/
abbrev State.noContextClean (s : State) : Prop :=
  (s.ctx.valid = false → s.dout = State.reset.dout) ∧ (s.err = .noContext → s.ctx.valid = false)

/-- An idle engine with DONE = 0 has completed no command since reset (rule R28). -/
abbrev State.freshClean (s : State) : Prop :=
  s.pending = none → s.done = false → s.err = .noError ∧ s.ctx = Context.reset ∧ s.dout = State.reset.dout

/-- What every state of a run satisfies. -/
structure State.Inv (s : State) : Prop where
  context : s.ctx.consistent
  tables : s.ctx.tablesAgree
  pending : s.pendingClean
  noContext : s.noContextClean
  fresh : s.freshClean

/-- Whether an event is a host's operation (rule R95). The engine step is the engine's (rule R92), and the reset event
the platform's (rule R230). -/
def Event.fromHost : Event → Bool
  | .access _ => true
  | .wait _ => true
  | .engineStep => false
  | .reset => false

/-- A run has ended: the hosts have performed their last operation, and no command is pending (rule R240). Engine steps
and resets may still be to come; they are no part of the run (assumption log entry 20). -/
abbrev State.runEnded (s : State) : Prop := (∀ e ∈ s.script, e.fromHost = false) ∧ s.pending = none

/-- The value a read returned, if the access was one and got one (rule R58). -/
def Answer.readValue : Answer → Option Word
  | .data v => some v
  | .written => none
  | .busError => none
  | .notDecoded => none

/-- The values the reads returned, in their order (rule R240). -/
def readValues (rs : List Reply) : List Word := rs.filterMap fun r => r.answer.readValue

/-- Which accesses got BusError, by their place in the order of accesses, the first being 0 (rule R240, decision D28). -/
def busErrors (rs : List Reply) : List Nat :=
  rs.zipIdx.filterMap fun p => if p.1.answer = .busError then some p.2 else none

/-- What a run's end shows, and nothing else (rule R240): no datum of a write, so nothing of KEY, and no number of
polls, since a WAIT leaves the reply of its last poll only. No access got BusError where `busErrors` is empty. -/
structure Observation where
  status : Word
  dout : Vector Word 4
  din : Vector Word 4
  reads : List Word
  busErrors : List Nat
  deriving DecidableEq, Repr

/-- The observation of a state (rule R240). -/
def State.observe (s : State) : Observation :=
  { status := statusWord s, dout := s.dout, din := s.din, reads := readValues s.replies,
    busErrors := Machine.busErrors s.replies }

/-- The state after an access that only answers its host: the event is used up, the answer recorded, and the engine as it
was (rules R56, R204). -/
abbrev State.answered (s : State) (rest : List Event) (a : Access) (ans : Answer) : State :=
  { s with script := rest, replies := s.replies ++ [{ access := a, answer := ans }] }

/-- The step to come is the engine step: the script says so, or it is empty (the model's choice, assumption log entry
1). -/
abbrev State.engineNext (s : State) : Prop := s.script = [] ∨ ∃ rest, s.script = .engineStep :: rest

/-- The step to come is the reset event. -/
abbrev State.resetNext (s : State) : Prop := ∃ rest, s.script = .reset :: rest

/-- The step to come is a host's write of `v` at offset `off`. -/
abbrev State.writeNext (s : State) (off : Nat) (v : Word) : Prop :=
  ∃ host rest, s.script = .access (writeAccess host off v) :: rest

/-- `n` steps, stopping at the first that has no next state: Host.Core.run for this machine (Laws/Ops.lean, core_run). -/
def runSteps : Nat → State → Host.Outcome State Fault Refusal
  | 0, s => .next s
  | n + 1, s =>
    match step s with
    | .next t => runSteps n t
    | .fault r => .fault r
    | .refused r => .refused r

/-- The end of a run: the first state at which it has ended, if that comes within `n` steps. What it observes is the
observation of that state (rule R240). -/
def runToEnd : Nat → State → Option State
  | 0, s => if s.runEnded then some s else none
  | n + 1, s =>
    if s.runEnded then some s
    else
      match step s with
      | .next t => runToEnd n t
      | .fault _ => none
      | .refused _ => none

/-- The next state of an outcome, if it is one. -/
def nextState : Host.Outcome State Fault Refusal → Option State
  | .next s => some s
  | .fault _ => none
  | .refused _ => none

end Sys2Proof.Machine
end

