-- ==== Sys2Proof/Certificates/Slice0/Obligations.lean ====
section
/-! DEFINITION. Sys2Proof/Certificates/Slice0/Obligations.lean: the statements for the provers, in the order of the
spec's files: encoding, step, INIT, ENCRYPT and DECRYPT, datapath, register window, STATUS, invariants and whole-machine
rules, reset and progress. -/

open Sys2Proof Sys2Proof.Machine

/-! ### Encoding (30_encoding.md) -/

/-- 30_encoding.md rules R81 to R87, on command words written out from the field tables (also 95_test_vectors.md
L2.9). -/
def Obligations.DecodesWrittenOutWords : Prop :=
  decode 0b00000000100000000000010000000001 = .ok (.init 128 4) ∧
  decode 0b00000000110000000000011000000001 = .ok (.init 192 6) ∧
  decode 0b00000000100000001111010011110001 = .ok (.init 128 4) ∧
  decode 0b11111111111111110000111100000001 = .ok (.init 65535 15) ∧
  decode 0b00000000000000000000000000000010 = .ok .encrypt ∧
  decode 0b11111111111111111111111111110011 = .ok .decrypt ∧
  decode 0b00000000100000000000010000000000 = .error (.illegalOpcode 0) ∧
  decode 0b00000000000000000000000000001111 = .error (.illegalOpcode 15)

/-- Rules R93 and R94: the word of each mnemonic and of each pseudo-command. -/
def Obligations.AssemblesTheSyntaxTable : Prop :=
  (∀ kb kw : Nat, kb ≤ 65535 → kw ≤ 15 → (encode (.init kb kw)).toNat = ((kb <<< 16) ||| (kw <<< 8)) ||| 0x1) ∧
  encode .encrypt = 0x00000002 ∧ encode .decrypt = 0x00000003 ∧
  (∀ host v, hostRawCmd host v = [.access (writeAccess host 0x00 v)]) ∧
  (∀ host c, hostCmd host c = [.access (writeAccess host 0x00 (encode c))]) ∧
  init128 = .init 128 4 ∧ encode init128 = 0x00800401 ∧
  init192 = .init 192 6 ∧ encode init192 = 0x00C00601 ∧
  init256 = .init 256 8 ∧ encode init256 = 0x01000801

/-- No bit of an encoding is dropped: every well-formed instruction decodes back from its word (rules R81, R82, R89,
R93). -/
def Obligations.DecodeOfEncodeIsTheInstruction : Prop :=
  ∀ i : Instr, i.WellFormed → decode (encode i) = .ok i

/-- The other direction: a word that decodes is, but for its reserved bits, the word of the instruction it decodes to,
which is well formed (rules R81, R82, R86). -/
def Obligations.DecodedWordReencodesWithReservedBitsClear : Prop :=
  ∀ (w : Word) (i : Instr), decode w = .ok i → i.WellFormed ∧ encode i = clearReserved w

/-- Rules R83 to R85 and R89: OPC, the word modulo 16, alone selects the command, every other OPC is rejected by name,
and KEYBITS and KEYWORDS are bits 31:16 and 11:8 as unsigned numbers. -/
def Obligations.DecoderFollowsOpcodeTable : Prop :=
  ∀ w : Word,
    (w.toNat % 16 = 1 → decode w = .ok (.init (w.toNat / 65536) (w.toNat / 256 % 16))) ∧
    (w.toNat % 16 = 2 → decode w = .ok .encrypt) ∧
    (w.toNat % 16 = 3 → decode w = .ok .decrypt) ∧
    (w.toNat % 16 = 0 ∨ 4 ≤ w.toNat % 16 → decode w = .error (.illegalOpcode (BitVec.ofNat 4 (w.toNat % 16))))

/-- Rule R86: a command decodes and executes the same for every value of its reserved bits. Two words with the same OPC
and, where that is INIT's, the same KEYBITS and KEYWORDS differ in reserved bits only, unless they are illegal. -/
def Obligations.ReservedBitsAreIgnored : Prop :=
  ∀ (w w' : Word), w.toNat % 16 = w'.toNat % 16 →
    (w.toNat % 16 = 1 → w.toNat / 65536 = w'.toNat / 65536 ∧ w.toNat / 256 % 16 = w'.toNat / 256 % 16) →
    decode w = decode w' ∧
    ∀ (s : State) (p : Snapshot), s.engineNext →
      step { s with pending := some { p with cmd := w } } = step { s with pending := some { p with cmd := w' } }

/-! ### Step (30_encoding.md rule R92) -/

/-- Where the engine step is next, a step is exec of the instruction the pending command decodes to, at the state whose
script has lost that event (rule R92). That a step with an empty script is the engine step is the model's choice
(assumption log entry 1). -/
def Obligations.StepRunsThePendingCommand : Prop :=
  ∀ (s : State) (p : Snapshot) (i : Instr), s.pending = some p → decode p.cmd = .ok i →
    (s.script = [] → step s = exec i s) ∧
    (∀ rest, s.script = .engineStep :: rest → step s = exec i { s with script := rest })

/-- A command word placed for the next step runs there on the state's own KEY and DIN, with DONE and ERR as its
acceptance leaves them (rules R57, R92; assumption log entry 2 says what placing stands for). -/
def Obligations.PlacedCommandRunsNext : Prop :=
  ∀ (s : State) (nbits w : Nat) (i : Instr), decodeTableWord nbits w = some i →
    step (s.withFetchWord nbits w) =
      exec i { s with
        pending := some { cmd := BitVec.ofNat 32 (w % 2 ^ nbits), key := s.key, din := s.din }
        done := false
        err := .noError }

/-- An illegal command completes with IllegalCommand and changes nothing but BUSY, DONE and ERR (rules R87, R203); where
the engine step is next, a step takes that step (rule R92). That a step with an empty script is the engine step is the
model's choice (assumption log entry 1). -/
def Obligations.IllegalCommandCompletesWithError : Prop :=
  ∀ (s : State) (p : Snapshot), s.pending = some p → (p.cmd.toNat % 16 = 0 ∨ 4 ≤ p.cmd.toNat % 16) →
    engineStep s = .next { s with pending := none, done := true, err := .illegalCommand } ∧
    (s.script = [] → step s = engineStep s) ∧
    (∀ rest, s.script = .engineStep :: rest → step s = engineStep { s with script := rest })

/-- An idle engine keeps all its state (rule R215), and its engine step is not enabled (rule R92). That the script may
name such a step, which then only uses up its event, is the model's reading (assumption log entry 6), and that a step
with an empty script is the engine step is the model's choice (entry 1). -/
def Obligations.IdleEngineKeepsItsState : Prop :=
  ∀ s : State, s.pending = none →
    (s.script = [] → step s = .next s) ∧
    (∀ rest, s.script = .engineStep :: rest → step s = .next { s with script := rest })

/-- No error, no access and no command word stops the engine: every step has a next state (rules R89, R204, R206, R208
and 93_implementation_defined.md I9, I10). That it has one where the engine is idle and the script is empty or names an
engine step, which is not enabled (rules R92, R215), is the model's choice and reading (assumption log entries 1 and 6),
and so is that an access outside the window (rule R51) is answered `notDecoded` (entry 4). -/
def Obligations.EveryStepHasANextState : Prop :=
  ∀ s : State, ∃ t, step s = .next t

/-! ### INIT (44_key_schedule.md) -/

/-- Rule R160: an INIT whose key length is accepted completes with the whole new context, whatever context was there. -/
def Obligations.InitCommitsTheContext : Prop :=
  ∀ (s : State) (p : Snapshot) (size : KeySize) (keybits keywords : Nat), s.pending = some p →
    (size = .k128 ∧ keybits = 128 ∨ size = .k192 ∧ keybits = 192 ∨ size = .k256 ∧ keybits = 256) →
    keybits / 32 ≤ keywords →
    exec (.init keybits keywords) s = .next { s with
      ctx := {
        valid := true
        keybits := some size
        rounds := match size with | .k128 => .thirteen | .k192 => .fifteen | .k256 => .seventeen
        ek := encryptionKeys size p.key
        dk := decryptionKeys (encryptionKeys size p.key) (match size with | .k128 => 13 | .k192 => 15 | .k256 => 17) }
      pending := none
      done := true
      err := .noError }

/-- Rules R152 to R157: the context's EK table holds the 17 keys of rule R155, written with its equivalent right
rotations 19, 31, 67, 97, 109, from W0..W3 of rule R154, on the padded key of rule R152 and the constants of R153. -/
def Obligations.InitDerivesEncryptionKeys : Prop :=
  ∀ (s t : State) (p : Snapshot) (size : KeySize) (keybits keywords : Nat), s.pending = some p →
    (size = .k128 ∧ keybits = 128 ∨ size = .k192 ∧ keybits = 192 ∨ size = .k256 ∧ keybits = 256) →
    keybits / 32 ≤ keywords → exec (.init keybits keywords) s = .next t →
    ∃ ck1 ck2 ck3 kr w0 w1 w2 w3 : Block,
      (ck1, ck2, ck3) = (match size with
        | .k128 => (0x517cc1b727220a94fe13abe8fa9a6ee0, 0x6db14acc9e21c820ff28b1d5ef5de2b0,
            0xdb92371d2126e9700324977504e8c90e)
        | .k192 => (0x6db14acc9e21c820ff28b1d5ef5de2b0, 0xdb92371d2126e9700324977504e8c90e,
            0x517cc1b727220a94fe13abe8fa9a6ee0)
        | .k256 => (0xdb92371d2126e9700324977504e8c90e, 0x517cc1b727220a94fe13abe8fa9a6ee0,
            0x6db14acc9e21c820ff28b1d5ef5de2b0)) ∧
      kr = (match size with
        | .k128 => 0
        | .k192 => p.key[4] ++ p.key[5] ++ 0#64
        | .k256 => p.key[4] ++ p.key[5] ++ p.key[6] ++ p.key[7]) ∧
      w0 = p.key[0] ++ p.key[1] ++ p.key[2] ++ p.key[3] ∧
      w1 = fo w0 ck1 ^^^ kr ∧ w2 = fe w1 ck2 ^^^ w0 ∧ w3 = fo w2 ck3 ^^^ w1 ∧
      t.ctx.ek = #v[
        w0 ^^^ w1.rotateRight 19, w1 ^^^ w2.rotateRight 19, w2 ^^^ w3.rotateRight 19, w0.rotateRight 19 ^^^ w3,
        w0 ^^^ w1.rotateRight 31, w1 ^^^ w2.rotateRight 31, w2 ^^^ w3.rotateRight 31, w0.rotateRight 31 ^^^ w3,
        w0 ^^^ w1.rotateRight 67, w1 ^^^ w2.rotateRight 67, w2 ^^^ w3.rotateRight 67, w0.rotateRight 67 ^^^ w3,
        w0 ^^^ w1.rotateRight 97, w1 ^^^ w2.rotateRight 97, w2 ^^^ w3.rotateRight 97, w0.rotateRight 97 ^^^ w3,
        w0 ^^^ w1.rotateRight 109] ∧
      roundNumber t.ctx.rounds = (match size with | .k128 => 13 | .k192 => 15 | .k256 => 17)

/-- Rules R158 and R159: the context's DK table is the active EK table reversed, with `A` applied to its interior keys,
and 0 beyond the round count. -/
def Obligations.InitDerivesDecryptionKeys : Prop :=
  ∀ (s t : State) (p : Snapshot) (keybits keywords r : Nat), s.pending = some p →
    (keybits = 128 ∧ r = 13 ∨ keybits = 192 ∧ r = 15 ∨ keybits = 256 ∧ r = 17) →
    keybits / 32 ≤ keywords → exec (.init keybits keywords) s = .next t →
    keyAt t.ctx.dk 0 = keyAt t.ctx.ek (r - 1) ∧
    (∀ i, 1 ≤ i → i ≤ r - 2 → keyAt t.ctx.dk i = diffuse (keyAt t.ctx.ek (r - 1 - i))) ∧
    keyAt t.ctx.dk (r - 1) = keyAt t.ctx.ek 0 ∧
    (∀ i, r ≤ i → i ≤ 16 → keyAt t.ctx.dk i = 0)

/-- Rules R151, R161 and R201: an unsupported KEYBITS, or fewer KEYWORDS than KEYBITS/32, completes with
InvalidKeyLength and changes no part of CTX: only ERR, BUSY and DONE change. -/
def Obligations.InitRejectsBadKeyLength : Prop :=
  ∀ (s : State) (p : Snapshot) (keybits keywords : Nat), s.pending = some p →
    (keybits ≠ 128 ∧ keybits ≠ 192 ∧ keybits ≠ 256 ∨ keywords < keybits / 32) →
    exec (.init keybits keywords) s = .next { s with pending := none, done := true, err := .invalidKeyLength }

/-- INIT reads no key word at index KEYBITS/32 or above, and nothing else of its snapshot (rules R22, R150, R162): two
snapshots that agree on the words below it give the same outcome. -/
def Obligations.InitReadsOnlyItsKeyWords : Prop :=
  ∀ (s : State) (p q : Snapshot) (keybits keywords : Nat),
    (∀ i : Fin 8, i.val < keybits / 32 → p.key[i] = q.key[i]) →
    exec (.init keybits keywords) { s with pending := some p } = exec (.init keybits keywords) { s with pending := some q }

/-! ### ENCRYPT and DECRYPT (45_block_transform.md) -/

/-- Rules R180 and R189: with a context, ENCRYPT completes with the transform of its snapshot's block under EK in
DOUT. -/
def Obligations.EncryptWritesItsResult : Prop :=
  ∀ (s : State) (p : Snapshot) (y : Block), s.pending = some p → s.ctx.valid = true →
    y = transform (roundNumber s.ctx.rounds) s.ctx.ek (p.din[0] ++ p.din[1] ++ p.din[2] ++ p.din[3]) →
    exec .encrypt s = .next { s with
      dout := #v[y.extractLsb' 96 32, y.extractLsb' 64 32, y.extractLsb' 32 32, y.extractLsb' 0 32]
      pending := none
      done := true
      err := .noError }

/-- Rules R181 and R189: with a context, DECRYPT completes with the transform of its snapshot's block under DK in
DOUT. -/
def Obligations.DecryptWritesItsResult : Prop :=
  ∀ (s : State) (p : Snapshot) (y : Block), s.pending = some p → s.ctx.valid = true →
    y = transform (roundNumber s.ctx.rounds) s.ctx.dk (p.din[0] ++ p.din[1] ++ p.din[2] ++ p.din[3]) →
    exec .decrypt s = .next { s with
      dout := #v[y.extractLsb' 96 32, y.extractLsb' 64 32, y.extractLsb' 32 32, y.extractLsb' 0 32]
      pending := none
      done := true
      err := .noError }

/-- Rules R182 to R184: the transform runs rounds 1 to R-2, F-odd where the round is odd and F-even where it is even,
round r with key K[r-1], and ends with `SL2(P ⊕ K[R-2]) ⊕ K[R-1]`. -/
def Obligations.TransformFollowsTheRounds : Prop :=
  ∀ (r : Nat) (k : Vector Block 17) (pin : Block), r = 13 ∨ r = 15 ∨ r = 17 →
    ∃ p : Nat → Block, p 0 = pin ∧
      (∀ j, 1 ≤ j → j ≤ r - 2 → j % 2 = 1 → p j = fo (p (j - 1)) (keyAt k (j - 1))) ∧
      (∀ j, 1 ≤ j → j ≤ r - 2 → j % 2 = 0 → p j = fe (p (j - 1)) (keyAt k (j - 1))) ∧
      transform r k pin = sl2 (p (r - 2) ^^^ keyAt k (r - 2)) ^^^ keyAt k (r - 1)

/-- Rules R188 and R202: with no context, ENCRYPT and DECRYPT complete with NoContext and leave DOUT and CTX as they
are. -/
def Obligations.TransformWithoutContextRaisesNoContext : Prop :=
  ∀ (s : State) (p : Snapshot) (i : Instr), s.pending = some p → s.ctx.valid = false → i = .encrypt ∨ i = .decrypt →
    exec i s = .next { s with pending := none, done := true, err := .noContext }

/-- ENCRYPT reads of EK, and DECRYPT of DK, only the entries below the round count, and neither reads the other table
(rules R37, R185). -/
def Obligations.TransformReadsOnlyActiveKeys : Prop :=
  ∀ (s t t' : State) (ek' dk' : Vector Block 17), s.ctx.valid = true → s.ctx.consistent →
    ((∀ i, i < roundNumber s.ctx.rounds → keyAt s.ctx.ek i = keyAt ek' i) → exec .encrypt s = .next t →
      exec .encrypt { s with ctx := { s.ctx with ek := ek', dk := dk' } } = .next t' → t.dout = t'.dout) ∧
    ((∀ i, i < roundNumber s.ctx.rounds → keyAt s.ctx.dk i = keyAt dk' i) → exec .decrypt s = .next t →
      exec .decrypt { s with ctx := { s.ctx with ek := ek', dk := dk' } } = .next t' → t.dout = t'.dout)

/-- Rule R187: for every block and every context, DECRYPT of what ENCRYPT gave is the block, and ENCRYPT of what DECRYPT
gave is the block (this second half is marked "[derived for the second equation: ...]"). A context is what INIT makes:
its fields agree, and DK is derived from EK. -/
def Obligations.DecryptAndEncryptUndoEachOther : Prop :=
  ∀ (s : State) (p : Snapshot), s.pending = some p → s.ctx.valid = true → s.ctx.consistent → s.ctx.tablesAgree →
    (∃ t, exec .encrypt s = .next t ∧
      ∀ q : Snapshot, q.din = t.dout → ∃ u, exec .decrypt { t with pending := some q } = .next u ∧ u.dout = p.din) ∧
    (∃ t, exec .decrypt s = .next t ∧
      ∀ q : Snapshot, q.din = t.dout → ∃ u, exec .encrypt { t with pending := some q } = .next u ∧ u.dout = p.din)

/-- The frame of the three commands: KEY, DIN and OVR are unchanged, also as a host reads them, and so are the events to
come and the replies made; INIT leaves DOUT, and ENCRYPT and DECRYPT leave CTX (rules R22, R23, R24, R31, R180, R189).
-/
def Obligations.CommandsKeepTheirFrame : Prop :=
  ∀ (i : Instr) (s t : State), exec i s = .next t →
    t.key = s.key ∧ t.din = s.din ∧ t.ovr = s.ovr ∧ t.script = s.script ∧ t.replies = s.replies ∧
    (∀ j, readReg (.din j) t = readReg (.din j) s) ∧
    (∀ keybits keywords, i = .init keybits keywords → t.dout = s.dout ∧ ∀ j, readReg (.dout j) t = readReg (.dout j) s) ∧
    (i = .encrypt ∨ i = .decrypt → t.ctx = s.ctx)

/-! ### Tables, diffusion, substitution, round functions (40 to 43) -/

/-- SB3 undoes SB1 and SB4 undoes SB2, both ways, each table is a bijection, and the corner entries (rule R104, whose
corner entries the spec marks as its own: "[derived: corner entries read from rules R100 to R103]"). -/
def Obligations.TablesAreInverseBijections : Prop :=
  (∀ b, lookup sb3 (lookup sb1 b) = b) ∧ (∀ b, lookup sb4 (lookup sb2 b) = b) ∧
  (∀ b, lookup sb1 (lookup sb3 b) = b) ∧ (∀ b, lookup sb2 (lookup sb4 b) = b) ∧
  Function.Bijective (lookup sb1) ∧ Function.Bijective (lookup sb2) ∧
  Function.Bijective (lookup sb3) ∧ Function.Bijective (lookup sb4) ∧
  lookup sb1 0x00 = 0x63 ∧ lookup sb1 0xff = 0x16 ∧ lookup sb2 0x00 = 0xe2 ∧ lookup sb2 0xff = 0x81 ∧
  lookup sb3 0x00 = 0x52 ∧ lookup sb3 0x63 = 0x00 ∧ lookup sb4 0x00 = 0x30 ∧ lookup sb4 0xe2 = 0x00

/-- Rule R121: the sixteen equations of the diffusion layer, byte i of a value being its bits 127-8i to 120-8i. -/
def Obligations.DiffusionFollowsItsEquations : Prop :=
  ∀ v : Block, ∃ x y : Fin 16 → Byte,
    (∀ i, x i = v.extractLsb' (120 - 8 * i.val) 8) ∧ (∀ i, y i = (diffuse v).extractLsb' (120 - 8 * i.val) 8) ∧
    y 0 = x 3 ^^^ x 4 ^^^ x 6 ^^^ x 8 ^^^ x 9 ^^^ x 13 ^^^ x 14 ∧
    y 1 = x 2 ^^^ x 5 ^^^ x 7 ^^^ x 8 ^^^ x 9 ^^^ x 12 ^^^ x 15 ∧
    y 2 = x 1 ^^^ x 4 ^^^ x 6 ^^^ x 10 ^^^ x 11 ^^^ x 12 ^^^ x 15 ∧
    y 3 = x 0 ^^^ x 5 ^^^ x 7 ^^^ x 10 ^^^ x 11 ^^^ x 13 ^^^ x 14 ∧
    y 4 = x 0 ^^^ x 2 ^^^ x 5 ^^^ x 8 ^^^ x 11 ^^^ x 14 ^^^ x 15 ∧
    y 5 = x 1 ^^^ x 3 ^^^ x 4 ^^^ x 9 ^^^ x 10 ^^^ x 14 ^^^ x 15 ∧
    y 6 = x 0 ^^^ x 2 ^^^ x 7 ^^^ x 9 ^^^ x 10 ^^^ x 12 ^^^ x 13 ∧
    y 7 = x 1 ^^^ x 3 ^^^ x 6 ^^^ x 8 ^^^ x 11 ^^^ x 12 ^^^ x 13 ∧
    y 8 = x 0 ^^^ x 1 ^^^ x 4 ^^^ x 7 ^^^ x 10 ^^^ x 13 ^^^ x 15 ∧
    y 9 = x 0 ^^^ x 1 ^^^ x 5 ^^^ x 6 ^^^ x 11 ^^^ x 12 ^^^ x 14 ∧
    y 10 = x 2 ^^^ x 3 ^^^ x 5 ^^^ x 6 ^^^ x 8 ^^^ x 13 ^^^ x 15 ∧
    y 11 = x 2 ^^^ x 3 ^^^ x 4 ^^^ x 7 ^^^ x 9 ^^^ x 12 ^^^ x 14 ∧
    y 12 = x 1 ^^^ x 2 ^^^ x 6 ^^^ x 7 ^^^ x 9 ^^^ x 11 ^^^ x 12 ∧
    y 13 = x 0 ^^^ x 3 ^^^ x 6 ^^^ x 7 ^^^ x 8 ^^^ x 10 ^^^ x 13 ∧
    y 14 = x 0 ^^^ x 3 ^^^ x 4 ^^^ x 5 ^^^ x 9 ^^^ x 11 ^^^ x 14 ∧
    y 15 = x 1 ^^^ x 2 ^^^ x 4 ^^^ x 5 ^^^ x 8 ^^^ x 10 ^^^ x 15

/-- "applying it twice returns the original value, for any 128-bit input" (rule R123, which the spec marks as its own
inference for all inputs: "[derived: from rule R121 and rule R122; all 256 entries of M·M were computed and equal
I]"). -/
def Obligations.DiffusionIsAnInvolution : Prop :=
  ∀ x : Block, diffuse (diffuse x) = x

/-- Rule R122, marked "[derived: from rule R121]": the matrix of the diffusion layer, row by row as the lists of its
ones: each row has exactly seven, the matrix is symmetric, so that each column has seven too, and output byte i is the
XOR of the input bytes of row i. -/
def Obligations.DiffusionMatrixIsSymmetric : Prop :=
  (∀ i : Fin 16, (diffusionRows.getD i.val []).Nodup ∧ (diffusionRows.getD i.val []).length = 7 ∧
    ∀ j ∈ diffusionRows.getD i.val [], j < 16) ∧
  (∀ i j : Fin 16, j.val ∈ diffusionRows.getD i.val [] ↔ i.val ∈ diffusionRows.getD j.val []) ∧
  ∀ (x : Block) (i : Fin 16),
    byteAt (diffuse x) i.val = (diffusionRows.getD i.val []).foldr (fun j acc => byteAt x j ^^^ acc) 0

/-- Rule R124, marked "[derived: from rule R121 and rule R122]": `A` is linear, maps 0 to 0 and all ones to all ones,
and a single nonzero byte x_j = c reaches exactly the seven output bytes whose row names j, each with value c. -/
def Obligations.DiffusionIsLinear : Prop :=
  (∀ a b : Block, diffuse (a ^^^ b) = diffuse a ^^^ diffuse b) ∧
  diffuse 0 = 0 ∧
  diffuse 0xffffffffffffffffffffffffffffffff = 0xffffffffffffffffffffffffffffffff ∧
  ∀ j : Fin 16,
    ((List.finRange 16).filter fun i => j.val ∈ diffusionRows.getD i.val []).length = 7 ∧
    ∀ (c : Byte) (i : Fin 16), byteAt (diffuse (blockOfBytes fun n => if n = j.val then c else 0)) i.val =
      if j.val ∈ diffusionRows.getD i.val [] then c else 0

/-- Rules R130 and R131: which table each byte lane of SL1 and SL2 goes through. -/
def Obligations.SubstitutionLayersFollowTheirPattern : Prop :=
  ∀ (x : Block) (i : Nat), i < 16 →
    (i % 4 = 0 → byteAt (sl1 x) i = lookup sb1 (byteAt x i) ∧ byteAt (sl2 x) i = lookup sb3 (byteAt x i)) ∧
    (i % 4 = 1 → byteAt (sl1 x) i = lookup sb2 (byteAt x i) ∧ byteAt (sl2 x) i = lookup sb4 (byteAt x i)) ∧
    (i % 4 = 2 → byteAt (sl1 x) i = lookup sb3 (byteAt x i) ∧ byteAt (sl2 x) i = lookup sb1 (byteAt x i)) ∧
    (i % 4 = 3 → byteAt (sl1 x) i = lookup sb4 (byteAt x i) ∧ byteAt (sl2 x) i = lookup sb2 (byteAt x i))

/-- Rule R132, marked "[derived: from rules R130, R131 and 40_tables.md rule R104]": "`SL2(SL1(x)) = x` and `SL1(SL2(x))
= x` for every x", and at every lane the two layers' tables undo each other. -/
def Obligations.SubstitutionLayersAreMutualInverses : Prop :=
  (∀ x : Block, sl2 (sl1 x) = x ∧ sl1 (sl2 x) = x) ∧
  ∀ (i : Nat) (b : Byte), i < 16 →
    lookup (sl2Table i) (lookup (sl1Table i) b) = b ∧ lookup (sl1Table i) (lookup (sl2Table i) b) = b

/-- Rule R144, marked "[derived: from rules R140, R141, 41_diffusion.md rule R123 and 42_substitution.md rule R132]":
the inverses of both round functions, their dependence on `D ⊕ RK` alone, bijectivity in D, and the corner values. -/
def Obligations.RoundFunctionsHaveTheirInverses : Prop :=
  (∀ d rk : Block, d = sl2 (diffuse (fo d rk)) ^^^ rk ∧ d = sl1 (diffuse (fe d rk)) ^^^ rk) ∧
  (∀ rk : Block, Function.Bijective (fun d => fo d rk) ∧ Function.Bijective (fun d => fe d rk)) ∧
  (∀ d rk : Block, fo d rk = fo (d ^^^ rk) 0 ∧ fe d rk = fe (d ^^^ rk) 0) ∧
  (∀ x : Block, fo x x = fo 0 0 ∧ fe x x = fe 0 0) ∧
  fo 0 0 = 0x3052e263e2633052523063e263e25230 ∧
  fe 0 0 = 0xe26330523052e26363e25230523063e2

/-- Rule R12: the model's rotations are the rotations of a 128-bit value, right by n and left by n. -/
def Obligations.RotationsRotate : Prop :=
  ∀ (v : Block) (n : Nat), n < 128 → ror v n = v.rotateRight n ∧ rol v n = v.rotateLeft n ∧
    (0 < n → v.rotateLeft n = v.rotateRight (128 - n))

/-! ### Register window (20_memory.md) -/

/-- Rule R58: what a host's aligned 32-bit read of each offset of the window returns; the read is one step. -/
def Obligations.HostReadsFollowTheRegisterMap : Prop :=
  ∀ (s : State) (host off : Nat) (rest : List Event), s.script = .access (readAccess host off) :: rest →
    (off = 0x00 → step s = .next (s.answered rest (readAccess host off) (.data 0))) ∧
    (off = 0x04 → step s = .next (s.answered rest (readAccess host off) (.data (statusWord s)))) ∧
    (∀ i : Fin 8, off = 0x10 + 4 * i.val → step s = .next (s.answered rest (readAccess host off) (.data 0))) ∧
    (∀ i : Fin 4, off = 0x30 + 4 * i.val → step s = .next (s.answered rest (readAccess host off) (.data s.din[i]))) ∧
    (∀ i : Fin 4, off = 0x40 + 4 * i.val → step s = .next (s.answered rest (readAccess host off) (.data s.dout[i]))) ∧
    (off % 4 = 0 → off = 0x08 ∨ off = 0x0C ∨ 0x50 ≤ off ∧ off ≤ 0xFC →
      step s = .next (s.answered rest (readAccess host off) .busError))

/-- Rules R53 to R55 and R204: an access of another width than 32 bits, a misaligned one, and one of an unmapped offset
get BusError, read or write, and change nothing of the engine. -/
def Obligations.RejectedAccessGetsBusError : Prop :=
  ∀ (s : State) (a : Access) (off : Nat) (rest : List Event), s.script = .access a :: rest →
    a.addr = Config.engineBase + off → off ≤ 0xFF →
    (a.width ≠ 4 ∨ off % 4 ≠ 0 ∨ off = 0x08 ∨ off = 0x0C ∨ 0x50 ≤ off) →
    step s = .next (s.answered rest a .busError)

/-- The engine "decodes no address outside its window" (rule R51): such an access leaves the engine as it is. That the
model records `notDecoded` for it is the model's choice (assumption log entry 4), and so is that an access which begins
below the window and reaches into it is placed by its first byte, and so not decoded, whatever its width (entry 8). -/
def Obligations.AddressOutsideWindowIsNotDecoded : Prop :=
  ∀ (s : State) (a : Access) (rest : List Event), s.script = .access a :: rest →
    (a.addr < Config.engineBase ∨ Config.engineBase + 0xFF < a.addr) →
    step s = .next (s.answered rest a .notDecoded)

/-- Rule R56: a read has no side effect, and the same read made twice in a row returns the same answer. -/
def Obligations.ReadsHaveNoSideEffect : Prop :=
  ∀ (s : State) (a : Access) (rest : List Event), a.kind = .read →
    s.script = .access a :: .access a :: rest →
    ∃ ans, step s = .next (s.answered (.access a :: rest) a ans) ∧
      step (s.answered (.access a :: rest) a ans) =
        .next { s with script := rest, replies := s.replies ++ [⟨a, ans⟩, ⟨a, ans⟩] }

/-- Rule R205: a write of CMD while a command is pending only sets OVR, and the pending command completes as if the
write had not happened. -/
def Obligations.BusyEngineDropsACommand : Prop :=
  ∀ (s : State) (host : Nat) (v : Word) (rest : List Event), s.script = .access (writeAccess host 0x00 v) :: rest →
    s.pending ≠ none →
    step s = .next { s.answered rest (writeAccess host 0x00 v) .written with ovr := true } ∧
    ∀ t : State, engineStep s = .next t →
      engineStep { s.answered rest (writeAccess host 0x00 v) .written with ovr := true } =
        .next { t.answered rest (writeAccess host 0x00 v) .written with ovr := true }

/-- Rule R57: what a host's aligned 32-bit write does at each offset of the window. A write of CMD while no command is
pending is accepted, whatever the word: PENDING takes the snapshot, and DONE and ERR become 0; while one is pending it
sets OVR and is lost. STATUS clears OVR if bit 8 of the datum is 1, KEY[i] and DIN[i] take the datum, DOUT ignores it,
and any other offset answers BusError. Nothing else changes, and the write is one step. -/
def Obligations.HostWritesFollowTheRegisterMap : Prop :=
  ∀ (s t : State) (host off : Nat) (v : Word) (rest : List Event), s.script = .access (writeAccess host off v) :: rest →
    t = s.answered rest (writeAccess host off v) .written →
    (off = 0x00 → s.pending = none → step s = .next { t with
      pending := some { cmd := v, key := s.key, din := s.din }
      done := false
      err := .noError }) ∧
    (off = 0x00 → s.pending ≠ none → step s = .next { t with ovr := true }) ∧
    (off = 0x04 → v.getLsbD 8 = true → step s = .next { t with ovr := false }) ∧
    (off = 0x04 → v.getLsbD 8 = false → step s = .next t) ∧
    (∀ i : Fin 8, off = 0x10 + 4 * i.val → step s = .next { t with key := s.key.set i v }) ∧
    (∀ i : Fin 4, off = 0x30 + 4 * i.val → step s = .next { t with din := s.din.set i v }) ∧
    (∀ i : Fin 4, off = 0x40 + 4 * i.val → step s = .next t) ∧
    (off % 4 = 0 → off = 0x08 ∨ off = 0x0C ∨ 0x50 ≤ off ∧ off ≤ 0xFC →
      step s = .next (s.answered rest (writeAccess host off v) .busError))

/-- Rule R210: "Every access that any host makes to the window has the same effect, whoever makes it." Only the reply's
record of the asking host differs. -/
def Obligations.HostsAreIndistinguishable : Prop :=
  ∀ (s : State) (a : Access) (host : Nat) (rest : List Event), s.script = .access a :: rest →
    ∃ (t : State) (ans : Answer), step s = .next { t with replies := s.replies ++ [⟨a, ans⟩] } ∧
      step { s with script := .access { a with host := host } :: rest } =
        .next { t with replies := s.replies ++ [⟨{ a with host := host }, ans⟩] }

/-- A pending command runs on its snapshot (rules R38, R62, R237): whatever KEY and DIN hold when it completes, the rest
of the outcome is the same. -/
def Obligations.PendingCommandRunsOnItsSnapshot : Prop :=
  ∀ (s t : State) (k : Vector Word 8) (d : Vector Word 4), s.pending ≠ none → engineStep s = .next t →
    engineStep { s with key := k, din := d } = .next { t with key := k, din := d }

/-- KEY, CMD and CTX cannot be read back (rules R22, R25, R35, R210): where two states differ only in KEY, the round
keys and what the pending snapshot holds, any event but the engine step gives both the same replies and the same
observation, and two states that again differ only so. -/
def Obligations.HostsCannotReadSecrets : Prop :=
  ∀ (s s' t t' : State),
    (s' = { s with key := s'.key, pending := s'.pending, ctx := { s.ctx with ek := s'.ctx.ek, dk := s'.ctx.dk } } ∧
      s'.pending.isSome = s.pending.isSome) →
    ¬ s.engineNext → step s = .next t → step s' = .next t' →
    t'.observe = t.observe ∧
    t' = { t with key := t'.key, pending := t'.pending, ctx := { t.ctx with ek := t'.ctx.ek, dk := t'.ctx.dk } } ∧
    t'.pending.isSome = t.pending.isSome

/-! ### STATUS (10_state.md) -/

/-- Rules R26, R27, R29, R32 and R33: each field of STATUS as a host reads it, and every reserved bit 0. -/
def Obligations.StatusShowsTheState : Prop :=
  ∀ s : State, s.ctx.consistent →
    (statusWord s).getLsbD 0 = s.pending.isSome ∧
    (statusWord s).getLsbD 1 = s.done ∧
    (statusWord s).getLsbD 2 = s.ctx.valid ∧
    (statusWord s).extractLsb' 4 4 = (match s.err with
      | .noError => 0 | .invalidKeyLength => 1 | .noContext => 2 | .illegalCommand => 3) ∧
    (statusWord s).getLsbD 8 = s.ovr ∧
    (statusWord s).extractLsb' 9 2 = (match s.ctx.keybits with
      | none => 0 | some .k128 => 1 | some .k192 => 2 | some .k256 => 3) ∧
    (statusWord s).extractLsb' 16 5 = (match s.ctx.rounds with
      | .zero => 0 | .thirteen => 13 | .fifteen => 15 | .seventeen => 17) ∧
    (statusWord s).getLsbD 3 = false ∧ (statusWord s).extractLsb' 11 5 = 0 ∧ (statusWord s).extractLsb' 21 11 = 0

/-- Rules R200 and R207: the error a completion reports, in the order the conditions are checked. -/
def Obligations.CompletionReportsItsError : Prop :=
  ∀ (s t : State) (p : Snapshot), s.pending = some p → engineStep s = .next t →
    t.err = match decode p.cmd with
      | .error _ => .illegalCommand
      | .ok (.init keybits keywords) =>
        if (keybits = 128 ∨ keybits = 192 ∨ keybits = 256) ∧ keybits / 32 ≤ keywords then .noError
        else .invalidKeyLength
      | .ok .encrypt => if s.ctx.valid then .noError else .noContext
      | .ok .decrypt => if s.ctx.valid then .noError else .noContext

/-- Rule R206: errors are precise. A command that raises one has no effect except on BUSY, DONE and ERR. -/
def Obligations.ErrorsArePrecise : Prop :=
  ∀ (s t : State), s.pending ≠ none → engineStep s = .next t → t.err ≠ .noError →
    t = { s with pending := none, done := true, err := t.err }

/-- Rules R27 and R28: BUSY rises only where an idle engine's CMD is written and falls only at an engine step or a
reset; DONE falls only where BUSY rises or at a reset, and rises only where BUSY falls at an engine step. -/
def Obligations.BusyAndDoneFollowTheCommand : Prop :=
  ∀ (s t : State), step s = .next t →
    (busy s = false → busy t = true → t.done = false ∧ ∃ v, s.writeNext 0x00 v) ∧
    (busy s = true → busy t = false → (s.engineNext ∧ t.done = true) ∨ s.resetNext) ∧
    (s.done = true → t.done = false → (busy s = false ∧ busy t = true) ∨ s.resetNext) ∧
    (s.done = false → t.done = true → s.engineNext ∧ busy s = true ∧ busy t = false)

/-- Rule R31: OVR is set exactly where CMD is written while BUSY = 1, and that command is dropped; it is cleared exactly
where STATUS is written with bit 8 = 1 or the engine is reset. -/
def Obligations.OverrunFlagIsSticky : Prop :=
  ∀ (s t : State), step s = .next t →
    (s.ovr = false → (t.ovr = true ↔ busy s = true ∧ ∃ v, s.writeNext 0x00 v)) ∧
    (s.ovr = true → (t.ovr = false ↔ (∃ v : Word, v.getLsbD 8 = true ∧ s.writeNext 0x04 v) ∨ s.resetNext)) ∧
    (busy s = true → (∃ v, s.writeNext 0x00 v) → t.ovr = true ∧ t.pending = s.pending)

/-! ### Invariants and whole-machine rules -/

/-- The invariant holds right after reset (rules R36, R41). -/
def Obligations.ResetMeetsTheInvariant : Prop := State.reset.Inv

/-- Every step keeps the invariant of Safety.lean: CTX's fields agree (rule R36), DK is what rules R158 and R159 derive
from EK, a pending command reads DONE = 0 and ERR = 0 (rules R57, R234), with no context DOUT is 0 and NoContext the
only reason to say so (rules R24, R29, R202), and an idle engine with DONE = 0 is fresh from reset (rule R28). -/
def Obligations.EveryStepKeepsTheInvariant : Prop :=
  ∀ (s t : State), s.Inv → step s = .next t → t.Inv

/-- Rule R36, marked "[derived: from rule R41 and rule R160]": "CTX always satisfies this invariant". Reset establishes
it and every step keeps it. -/
def Obligations.ContextFieldsAlwaysAgree : Prop :=
  State.reset.ctx.consistent ∧ ∀ (s t : State), s.ctx.consistent → step s = .next t → t.ctx.consistent

/-- Rule R29: CTX_VALID equals CTX.valid, becomes 1 only in the completion step of an INIT that succeeds, and never
becomes 0 except at reset; and nothing else but such an INIT and reset changes CTX at all (rules R35, R160, R161). -/
def Obligations.ContextChangesOnlyByInitOrReset : Prop :=
  ∀ (s t : State), step s = .next t → t.ctx ≠ s.ctx →
    s.resetNext ∨
    (s.engineNext ∧ t.ctx.valid = true ∧ t.err = .noError ∧
      ∃ p keybits keywords, s.pending = some p ∧ decode p.cmd = .ok (.init keybits keywords))

/-- Rule R24: DOUT changes only in the completion step of an ENCRYPT or DECRYPT that completes without error, and at
reset. -/
def Obligations.ResultChangesOnlyByTransformOrReset : Prop :=
  ∀ (s t : State), step s = .next t → t.dout ≠ s.dout →
    s.resetNext ∨
    (s.engineNext ∧ s.ctx.valid = true ∧ t.err = .noError ∧
      ∃ p, s.pending = some p ∧ (decode p.cmd = .ok .encrypt ∨ decode p.cmd = .ok .decrypt))

/-- Rules R22 and R23: the engine never writes KEY or DIN. Each changes only where a host writes one of its words, and
at reset. -/
def Obligations.KeyAndInputChangeOnlyByHosts : Prop :=
  ∀ (s t : State), step s = .next t →
    (t.key ≠ s.key → s.resetNext ∨ ∃ (i : Fin 8) (v : Word), s.writeNext (0x10 + 4 * i.val) v ∧ t.key = s.key.set i v) ∧
    (t.din ≠ s.din → s.resetNext ∨ ∃ (i : Fin 4) (v : Word), s.writeNext (0x30 + 4 * i.val) v ∧ t.din = s.din.set i v)

/-! ### Reset and progress (70_reset_and_hazards.md) -/

/-- The reset event, at any point and with any command pending, sets every component of the engine to its reset value
(rules R41, R230, R231). That what is still to come and what hosts have seen stay is the model's choice (assumption log
entry 12). -/
def Obligations.ResetEventSetsEveryComponent : Prop :=
  ∀ (s : State) (rest : List Event), s.script = .reset :: rest →
    ∃ t, step s = .next t ∧
      (∀ i : Fin 8, t.key[i] = 0) ∧ (∀ i : Fin 4, t.din[i] = 0) ∧ (∀ i : Fin 4, t.dout[i] = 0) ∧ statusWord t = 0 ∧
      t.ctx.valid = false ∧ t.ctx.keybits = none ∧ roundNumber t.ctx.rounds = 0 ∧
      (∀ i : Fin 17, t.ctx.ek[i] = 0) ∧ (∀ i : Fin 17, t.ctx.dk[i] = 0) ∧ t.pending = none ∧
      t.script = rest ∧ t.replies = s.replies

/-- Every run ends (rules R239, R240): from any state, within three steps for each event still to come and one more, all
events have taken place and no command is pending, whether it completed or a reset aborted it (rule R231). That a finite
script is followed by engine steps is the model's form of the weak fairness rule R239 assumes (assumption log entry 1),
that a WAIT takes at most three steps is the model's schedule of it (entry 3), and that an engine step named while no
command is pending only uses up its event is the model's reading (entry 6). -/
def Obligations.EveryRunEnds : Prop :=
  ∀ s : State, ∃ (n : Nat) (t : State), n ≤ 3 * s.script.length + 1 ∧ runSteps n s = .next t ∧
    t.script = [] ∧ t.pending = none ∧ t.runEnded

/-- Rules R95 and R239: a WAIT loop ends, and when it has ended no command is pending and its last read showed
BUSY = 0. That one engine step follows a turn that saw BUSY = 1 is the model's choice (assumption log entry 3). -/
def Obligations.WaitLoopEnds : Prop :=
  ∀ (s : State) (host : Nat) (rest : List Event), s.script = .wait host :: rest →
    ∃ (n : Nat) (t : State), n ≤ 3 ∧ runSteps n s = .next t ∧ t.script = rest ∧ t.pending = none ∧
      ∃ (before : List Reply) (v : Word), t.replies = before ++ [⟨readAccess host 0x04, .data v⟩] ∧ v.getLsbD 0 = false

/-- Rule R240: a run's observation does not say "how many polls a WAIT made". However many engine steps stand before a
WAIT, so whether or not its first poll finds BUSY = 1, it ends in one and the same state, with one reply: a read of
STATUS with BUSY = 0. That a WAIT that finds BUSY = 1 is followed by one engine step, and that the last poll is the one
that leaves a reply, are the model's choices (assumption log entry 3), and that an engine step named while no command is
pending only uses up its event is its reading (entry 6). -/
def Obligations.WaitDoesNotTellItsPolls : Prop :=
  ∀ (s : State) (host k : Nat) (rest : List Event), s.script = .wait host :: rest →
    ∃ (n m : Nat) (t : State) (v : Word), n ≤ 3 ∧ m ≤ k + 3 ∧ runSteps n s = .next t ∧
      runSteps m { s with script := List.replicate k .engineStep ++ s.script } = .next t ∧
      t.script = rest ∧ t.replies = s.replies ++ [⟨readAccess host 0x04, .data v⟩] ∧ v.getLsbD 0 = false

/-- Rule R240: of each access a run's observation takes the value, if it is a read that returned one, and BusError, with
the access's place (the model's reading of R240 and D28, assumption log entry 19). Beside STATUS, DOUT and DIN it takes
nothing else: where these and the answers agree, whatever the accesses and the data they wrote, so do the
observations. -/
def Obligations.ObservationTakesReadsAndBusErrors : Prop :=
  (∀ (s : State) (a : Access) (rest : List Event), s.script = .access a :: rest →
    ∃ (t : State) (ans : Answer), step s = .next t ∧ t.replies = s.replies ++ [⟨a, ans⟩] ∧
      t.observe.reads = s.observe.reads ++ (match ans with | .data v => [v] | _ => []) ∧
      t.observe.busErrors = s.observe.busErrors ++ (if ans = .busError then [s.replies.length] else [])) ∧
  ∀ s s' : State, statusWord s' = statusWord s → s'.dout = s.dout → s'.din = s.din →
    s'.replies.map (·.answer) = s.replies.map (·.answer) → s'.observe = s.observe

/-- Rule R240: a run's observation does not say "what KEY or CTX hold". A write of KEY, whatever its datum, is one step
that changes nothing of the observation, and what a host observes of a state is the same for every KEY and every pair of
round-key tables. -/
def Obligations.ObservationDoesNotTellKeys : Prop :=
  (∀ (s : State) (host : Nat) (i : Fin 8) (v : Word) (rest : List Event),
    s.script = .access (writeAccess host (0x10 + 4 * i.val) v) :: rest →
    ∃ t, step s = .next t ∧ t.key = s.key.set i v ∧ t.observe = s.observe) ∧
  ∀ (s : State) (k : Vector Word 8) (ek dk : Vector Block 17),
    { s with key := k, ctx := { s.ctx with ek := ek, dk := dk } }.observe = s.observe

/-- Rule R239: every accepted command completes, unless a reset aborts it (rule R231). With a command pending and no
reset to come, within one step for each event to come and one more the engine step is next with that very command
pending, and it completes it: BUSY becomes 0 and DONE 1. That a finite script is followed by engine steps is the model's
form of the weak fairness the rule assumes (assumption log entry 1), and that a WAIT that finds BUSY = 1 is followed by
an engine step is the model's schedule of it (entry 3). -/
def Obligations.PendingCommandRunsUnlessReset : Prop :=
  ∀ (s : State) (p : Snapshot), s.pending = some p → Event.reset ∉ s.script →
    ∃ (n : Nat) (t u : State), n ≤ s.script.length + 1 ∧ runSteps n s = .next t ∧ t.pending = some p ∧ t.engineNext ∧
      step t = .next u ∧ busy u = false ∧ u.done = true

/-- Rule R240: "A run of a host program ends when the host has performed its last operation and `PENDING = none`". Every
run has one end, the first such state, whatever number of steps it is given from the bound of EveryRunEnds on; it is
that state although engine steps or resets may still be to come, and until a reset these leave a run ended and its
observation as it is. That these events are no part of a run, and that "the host" means every host, is the model's
reading (assumption log entry 20); the bound rests on log entries 1, 3 and 6 as EveryRunEnds does. -/
def Obligations.RunEndsWithTheLastHostOperation : Prop :=
  (∀ s : State, ∃ t : State, (∀ e ∈ t.script, e = .engineStep ∨ e = .reset) ∧ t.pending = none ∧
    (∃ k, runSteps k s = .next t) ∧ ∀ n, 3 * s.script.length + 1 ≤ n → runToEnd n s = some t) ∧
  (∀ (s : State) (n : Nat), (∀ e ∈ s.script, e = .engineStep ∨ e = .reset) → s.pending = none →
    runToEnd n s = some s) ∧
  ∀ s : State, s.runEnded → ¬ s.resetNext → ∃ t, step s = .next t ∧ t.runEnded ∧ t.observe = s.observe
end

