-- ==== Sys2Proof/Laws/Bits.lean ====
section
/-! SUPPORT. Sys2Proof/Laws/Bits.lean: the byte and word views of a 128-bit value (00_scope.md rules R10, R11) take it
apart and put it together again, and two values with the same sixteen bytes are the same value. -/

namespace Sys2Proof.Machine

theorem byteAt_getLsbD (v : Block) (i k : Nat) : (byteAt v i).getLsbD k = (decide (k < 8) && v.getLsbD (120 - 8 * i + k)) := by
  simp [byteAt, BitVec.getLsbD_extractLsb']

/-- The low part of an append, cut out. -/
theorem extract_append_low {m n : Nat} (a : BitVec m) (b : BitVec n) (k w : Nat) (h : k + w ≤ n) :
    (a ++ b).extractLsb' k w = b.extractLsb' k w := by
  apply BitVec.eq_of_getLsbD_eq
  intro j hj
  simp only [BitVec.getLsbD_extractLsb', BitVec.getLsbD_append, if_pos (show k + j < n by omega)]

/-- The high part of an append, cut out. -/
theorem extract_append_high {m n : Nat} (a : BitVec m) (b : BitVec n) (k w : Nat) (h : n ≤ k) :
    (a ++ b).extractLsb' k w = a.extractLsb' (k - n) w := by
  apply BitVec.eq_of_getLsbD_eq
  intro j hj
  simp only [BitVec.getLsbD_extractLsb', BitVec.getLsbD_append, if_neg (show ¬ k + j < n by omega),
    show k + j - n = k - n + j by omega]

/-- The whole of a value, cut out, is the value. -/
theorem extract_whole {n : Nat} (a : BitVec n) : a.extractLsb' 0 n = a := by
  apply BitVec.eq_of_getLsbD_eq
  intro j hj
  simp [hj]

/-- Taking byte i of a value assembled from bytes gives the i-th of them (rule R10). -/
@[simp] theorem byteAt_blockOfBytes (x : Nat → Byte) (i : Nat) (h : i < 16) : byteAt (blockOfBytes x) i = x i := by
  unfold byteAt blockOfBytes
  interval_cases i <;>
    repeat (first | exact extract_whole _ | rw [extract_append_high _ _ _ _ (by decide)] | rw [extract_append_low _ _ _ _ (by decide)])

/-- Two 128-bit values with the same sixteen bytes are equal. -/
theorem block_eq_of_bytes {x y : Block} (h : ∀ i, i < 16 → byteAt x i = byteAt y i) : x = y := by
  apply BitVec.eq_of_getLsbD_eq
  intro n hn
  have h' := congrArg (fun b => b.getLsbD (n % 8)) (h (15 - n / 8) (by omega))
  simp only [byteAt_getLsbD] at h'
  have e : 120 - 8 * (15 - n / 8) + n % 8 = n := by omega
  have hk : n % 8 < 8 := Nat.mod_lt _ (by omega)
  simpa [e, hk] using h'

/-- A value is assembled from its own bytes (rule R10: `v = x0 ‖ x1 ‖ ... ‖ x15`). -/
theorem blockOfBytes_byteAt (v : Block) : blockOfBytes (byteAt v) = v :=
  block_eq_of_bytes fun i hi => byteAt_blockOfBytes _ i hi

/-- Bytes of an XOR. -/
@[simp] theorem byteAt_xor (v w : Block) (i : Nat) : byteAt (v ^^^ w) i = byteAt v i ^^^ byteAt w i := by
  apply BitVec.eq_of_getLsbD_eq
  intro k hk
  rw [BitVec.getLsbD_xor]
  simp only [byteAt_getLsbD, BitVec.getLsbD_xor, hk, decide_true, Bool.true_and]

/-- Bytes of a substitution layer: each lane through its own table. -/
theorem byteAt_substitute (table : Nat → Table) (x : Block) (i : Nat) (h : i < 16) :
    byteAt (substitute table x) i = lookup (table i) (byteAt x i) := byteAt_blockOfBytes _ i h

/-- Bytes of the diffusion layer: the XOR of the input bytes its row names. -/
theorem byteAt_diffuse (x : Block) (i : Nat) (h : i < 16) :
    byteAt (diffuse x) i = xorBytes x (diffusionRows.getD i []) := byteAt_blockOfBytes _ i h

/-- The XOR over a list of bytes is linear. -/
theorem xorBytes_xor (x y : Block) (js : List Nat) : xorBytes (x ^^^ y) js = xorBytes x js ^^^ xorBytes y js := by
  induction js with
  | nil => simp [xorBytes]
  | cons j js ih => simp only [xorBytes, byteAt_xor, ih]; ac_rfl

/-- Taking word i of a value assembled from words gives the i-th of them (rule R11). -/
@[simp] theorem wordAt_blockOfWords (w0 w1 w2 w3 : Word) :
    wordAt (blockOfWords w0 w1 w2 w3) 0 = w0 ∧ wordAt (blockOfWords w0 w1 w2 w3) 1 = w1 ∧
      wordAt (blockOfWords w0 w1 w2 w3) 2 = w2 ∧ wordAt (blockOfWords w0 w1 w2 w3) 3 = w3 := by
  unfold wordAt blockOfWords
  refine ⟨?_, ?_, ?_, ?_⟩ <;>
    repeat (first | exact extract_whole _ | rw [extract_append_high _ _ _ _ (by decide)] | rw [extract_append_low _ _ _ _ (by decide)])

/-- A value is assembled from its own words (rule R11: `v = w0 ‖ w1 ‖ w2 ‖ w3`). -/
theorem blockOfWords_wordAt (v : Block) : blockOfWords (wordAt v 0) (wordAt v 1) (wordAt v 2) (wordAt v 3) = v := by
  apply BitVec.eq_of_getLsbD_eq
  intro n hn
  simp only [blockOfWords, BitVec.getLsbD_append, wordAt, BitVec.getLsbD_extractLsb']
  by_cases h0 : n < 32
  · simp [h0]
  · by_cases h1 : n < 64
    · have : n - 32 < 32 := by omega
      simp [h0, this]; congr 1; omega
    · by_cases h2 : n < 96
      · have : ¬ n - 32 < 32 := by omega
        have h3 : n - 32 - 32 < 32 := by omega
        simp [h0, this, h3]; congr 1; omega
      · have : ¬ n - 32 < 32 := by omega
        have h3 : ¬ n - 32 - 32 < 32 := by omega
        have h4 : n - 32 - 32 - 32 < 32 := by omega
        simp [h0, this, h3, h4]; congr 1; omega

/-- The output words of a result, read back as a block, are the result (rules R24, R189). -/
@[simp] theorem inputBlock_outputWords (y : Block) : inputBlock (outputWords y) = y := blockOfWords_wordAt y

end Sys2Proof.Machine
end

