-- ==== Sys2Proof/Laws/State.lean ====
section
/-! SUPPORT. Sys2Proof/Laws/State.lean: what each named update of the state leaves in each field, one simp lemma per
field and update, so that no proof unfolds a record update. -/

namespace Sys2Proof.Machine

/-! ### writeKey -/

@[simp] theorem writeKey_key (i : Fin 8) (v : Word) (s : State) : (writeKey i v s).key = s.key.set i v := rfl
@[simp] theorem writeKey_din (i : Fin 8) (v : Word) (s : State) : (writeKey i v s).din = s.din := rfl
@[simp] theorem writeKey_dout (i : Fin 8) (v : Word) (s : State) : (writeKey i v s).dout = s.dout := rfl
@[simp] theorem writeKey_done (i : Fin 8) (v : Word) (s : State) : (writeKey i v s).done = s.done := rfl
@[simp] theorem writeKey_err (i : Fin 8) (v : Word) (s : State) : (writeKey i v s).err = s.err := rfl
@[simp] theorem writeKey_ovr (i : Fin 8) (v : Word) (s : State) : (writeKey i v s).ovr = s.ovr := rfl
@[simp] theorem writeKey_ctx (i : Fin 8) (v : Word) (s : State) : (writeKey i v s).ctx = s.ctx := rfl
@[simp] theorem writeKey_pending (i : Fin 8) (v : Word) (s : State) : (writeKey i v s).pending = s.pending := rfl
@[simp] theorem writeKey_script (i : Fin 8) (v : Word) (s : State) : (writeKey i v s).script = s.script := rfl
@[simp] theorem writeKey_replies (i : Fin 8) (v : Word) (s : State) : (writeKey i v s).replies = s.replies := rfl

/-! ### writeDin -/

@[simp] theorem writeDin_key (i : Fin 4) (v : Word) (s : State) : (writeDin i v s).key = s.key := rfl
@[simp] theorem writeDin_din (i : Fin 4) (v : Word) (s : State) : (writeDin i v s).din = s.din.set i v := rfl
@[simp] theorem writeDin_dout (i : Fin 4) (v : Word) (s : State) : (writeDin i v s).dout = s.dout := rfl
@[simp] theorem writeDin_done (i : Fin 4) (v : Word) (s : State) : (writeDin i v s).done = s.done := rfl
@[simp] theorem writeDin_err (i : Fin 4) (v : Word) (s : State) : (writeDin i v s).err = s.err := rfl
@[simp] theorem writeDin_ovr (i : Fin 4) (v : Word) (s : State) : (writeDin i v s).ovr = s.ovr := rfl
@[simp] theorem writeDin_ctx (i : Fin 4) (v : Word) (s : State) : (writeDin i v s).ctx = s.ctx := rfl
@[simp] theorem writeDin_pending (i : Fin 4) (v : Word) (s : State) : (writeDin i v s).pending = s.pending := rfl
@[simp] theorem writeDin_script (i : Fin 4) (v : Word) (s : State) : (writeDin i v s).script = s.script := rfl
@[simp] theorem writeDin_replies (i : Fin 4) (v : Word) (s : State) : (writeDin i v s).replies = s.replies := rfl

/-! ### acceptCommand -/

@[simp] theorem acceptCommand_key (v : Word) (s : State) : (acceptCommand v s).key = s.key := rfl
@[simp] theorem acceptCommand_din (v : Word) (s : State) : (acceptCommand v s).din = s.din := rfl
@[simp] theorem acceptCommand_dout (v : Word) (s : State) : (acceptCommand v s).dout = s.dout := rfl
@[simp] theorem acceptCommand_done (v : Word) (s : State) : (acceptCommand v s).done = false := rfl
@[simp] theorem acceptCommand_err (v : Word) (s : State) : (acceptCommand v s).err = .noError := rfl
@[simp] theorem acceptCommand_ovr (v : Word) (s : State) : (acceptCommand v s).ovr = s.ovr := rfl
@[simp] theorem acceptCommand_ctx (v : Word) (s : State) : (acceptCommand v s).ctx = s.ctx := rfl
@[simp] theorem acceptCommand_pending (v : Word) (s : State) : (acceptCommand v s).pending = some { cmd := v, key := s.key, din := s.din } := rfl
@[simp] theorem acceptCommand_script (v : Word) (s : State) : (acceptCommand v s).script = s.script := rfl
@[simp] theorem acceptCommand_replies (v : Word) (s : State) : (acceptCommand v s).replies = s.replies := rfl

/-! ### dropCommand -/

@[simp] theorem dropCommand_key (s : State) : (dropCommand s).key = s.key := rfl
@[simp] theorem dropCommand_din (s : State) : (dropCommand s).din = s.din := rfl
@[simp] theorem dropCommand_dout (s : State) : (dropCommand s).dout = s.dout := rfl
@[simp] theorem dropCommand_done (s : State) : (dropCommand s).done = s.done := rfl
@[simp] theorem dropCommand_err (s : State) : (dropCommand s).err = s.err := rfl
@[simp] theorem dropCommand_ovr (s : State) : (dropCommand s).ovr = true := rfl
@[simp] theorem dropCommand_ctx (s : State) : (dropCommand s).ctx = s.ctx := rfl
@[simp] theorem dropCommand_pending (s : State) : (dropCommand s).pending = s.pending := rfl
@[simp] theorem dropCommand_script (s : State) : (dropCommand s).script = s.script := rfl
@[simp] theorem dropCommand_replies (s : State) : (dropCommand s).replies = s.replies := rfl

/-! ### writeStatus -/

@[simp] theorem writeStatus_key (v : Word) (s : State) : (writeStatus v s).key = s.key := by
  unfold writeStatus; split <;> simp [*]
@[simp] theorem writeStatus_din (v : Word) (s : State) : (writeStatus v s).din = s.din := by
  unfold writeStatus; split <;> simp [*]
@[simp] theorem writeStatus_dout (v : Word) (s : State) : (writeStatus v s).dout = s.dout := by
  unfold writeStatus; split <;> simp [*]
@[simp] theorem writeStatus_done (v : Word) (s : State) : (writeStatus v s).done = s.done := by
  unfold writeStatus; split <;> simp [*]
@[simp] theorem writeStatus_err (v : Word) (s : State) : (writeStatus v s).err = s.err := by
  unfold writeStatus; split <;> simp [*]
@[simp] theorem writeStatus_ovr (v : Word) (s : State) : (writeStatus v s).ovr = (s.ovr && !v.getLsbD 8) := by
  unfold writeStatus; cases v.getLsbD 8 <;> simp
@[simp] theorem writeStatus_ctx (v : Word) (s : State) : (writeStatus v s).ctx = s.ctx := by
  unfold writeStatus; split <;> simp [*]
@[simp] theorem writeStatus_pending (v : Word) (s : State) : (writeStatus v s).pending = s.pending := by
  unfold writeStatus; split <;> simp [*]
@[simp] theorem writeStatus_script (v : Word) (s : State) : (writeStatus v s).script = s.script := by
  unfold writeStatus; split <;> simp [*]
@[simp] theorem writeStatus_replies (v : Word) (s : State) : (writeStatus v s).replies = s.replies := by
  unfold writeStatus; split <;> simp [*]

/-! ### raiseError -/

@[simp] theorem raiseError_key (e : ErrCode) (s : State) : (raiseError e s).key = s.key := rfl
@[simp] theorem raiseError_din (e : ErrCode) (s : State) : (raiseError e s).din = s.din := rfl
@[simp] theorem raiseError_dout (e : ErrCode) (s : State) : (raiseError e s).dout = s.dout := rfl
@[simp] theorem raiseError_done (e : ErrCode) (s : State) : (raiseError e s).done = s.done := rfl
@[simp] theorem raiseError_err (e : ErrCode) (s : State) : (raiseError e s).err = e := rfl
@[simp] theorem raiseError_ovr (e : ErrCode) (s : State) : (raiseError e s).ovr = s.ovr := rfl
@[simp] theorem raiseError_ctx (e : ErrCode) (s : State) : (raiseError e s).ctx = s.ctx := rfl
@[simp] theorem raiseError_pending (e : ErrCode) (s : State) : (raiseError e s).pending = s.pending := rfl
@[simp] theorem raiseError_script (e : ErrCode) (s : State) : (raiseError e s).script = s.script := rfl
@[simp] theorem raiseError_replies (e : ErrCode) (s : State) : (raiseError e s).replies = s.replies := rfl

/-! ### reportSuccess -/

@[simp] theorem reportSuccess_key (s : State) : (reportSuccess s).key = s.key := rfl
@[simp] theorem reportSuccess_din (s : State) : (reportSuccess s).din = s.din := rfl
@[simp] theorem reportSuccess_dout (s : State) : (reportSuccess s).dout = s.dout := rfl
@[simp] theorem reportSuccess_done (s : State) : (reportSuccess s).done = s.done := rfl
@[simp] theorem reportSuccess_err (s : State) : (reportSuccess s).err = .noError := rfl
@[simp] theorem reportSuccess_ovr (s : State) : (reportSuccess s).ovr = s.ovr := rfl
@[simp] theorem reportSuccess_ctx (s : State) : (reportSuccess s).ctx = s.ctx := rfl
@[simp] theorem reportSuccess_pending (s : State) : (reportSuccess s).pending = s.pending := rfl
@[simp] theorem reportSuccess_script (s : State) : (reportSuccess s).script = s.script := rfl
@[simp] theorem reportSuccess_replies (s : State) : (reportSuccess s).replies = s.replies := rfl

/-! ### completeCommand -/

@[simp] theorem completeCommand_key (s : State) : (completeCommand s).key = s.key := rfl
@[simp] theorem completeCommand_din (s : State) : (completeCommand s).din = s.din := rfl
@[simp] theorem completeCommand_dout (s : State) : (completeCommand s).dout = s.dout := rfl
@[simp] theorem completeCommand_done (s : State) : (completeCommand s).done = true := rfl
@[simp] theorem completeCommand_err (s : State) : (completeCommand s).err = s.err := rfl
@[simp] theorem completeCommand_ovr (s : State) : (completeCommand s).ovr = s.ovr := rfl
@[simp] theorem completeCommand_ctx (s : State) : (completeCommand s).ctx = s.ctx := rfl
@[simp] theorem completeCommand_pending (s : State) : (completeCommand s).pending = none := rfl
@[simp] theorem completeCommand_script (s : State) : (completeCommand s).script = s.script := rfl
@[simp] theorem completeCommand_replies (s : State) : (completeCommand s).replies = s.replies := rfl

/-! ### commitContext -/

@[simp] theorem commitContext_key (c : Context) (s : State) : (commitContext c s).key = s.key := rfl
@[simp] theorem commitContext_din (c : Context) (s : State) : (commitContext c s).din = s.din := rfl
@[simp] theorem commitContext_dout (c : Context) (s : State) : (commitContext c s).dout = s.dout := rfl
@[simp] theorem commitContext_done (c : Context) (s : State) : (commitContext c s).done = s.done := rfl
@[simp] theorem commitContext_err (c : Context) (s : State) : (commitContext c s).err = s.err := rfl
@[simp] theorem commitContext_ovr (c : Context) (s : State) : (commitContext c s).ovr = s.ovr := rfl
@[simp] theorem commitContext_ctx (c : Context) (s : State) : (commitContext c s).ctx = c := rfl
@[simp] theorem commitContext_pending (c : Context) (s : State) : (commitContext c s).pending = s.pending := rfl
@[simp] theorem commitContext_script (c : Context) (s : State) : (commitContext c s).script = s.script := rfl
@[simp] theorem commitContext_replies (c : Context) (s : State) : (commitContext c s).replies = s.replies := rfl

/-! ### writeResult -/

@[simp] theorem writeResult_key (y : Block) (s : State) : (writeResult y s).key = s.key := rfl
@[simp] theorem writeResult_din (y : Block) (s : State) : (writeResult y s).din = s.din := rfl
@[simp] theorem writeResult_dout (y : Block) (s : State) : (writeResult y s).dout = outputWords y := rfl
@[simp] theorem writeResult_done (y : Block) (s : State) : (writeResult y s).done = s.done := rfl
@[simp] theorem writeResult_err (y : Block) (s : State) : (writeResult y s).err = s.err := rfl
@[simp] theorem writeResult_ovr (y : Block) (s : State) : (writeResult y s).ovr = s.ovr := rfl
@[simp] theorem writeResult_ctx (y : Block) (s : State) : (writeResult y s).ctx = s.ctx := rfl
@[simp] theorem writeResult_pending (y : Block) (s : State) : (writeResult y s).pending = s.pending := rfl
@[simp] theorem writeResult_script (y : Block) (s : State) : (writeResult y s).script = s.script := rfl
@[simp] theorem writeResult_replies (y : Block) (s : State) : (writeResult y s).replies = s.replies := rfl

/-! ### resetEngine -/

@[simp] theorem resetEngine_key (s : State) : (resetEngine s).key = State.reset.key := rfl
@[simp] theorem resetEngine_din (s : State) : (resetEngine s).din = State.reset.din := rfl
@[simp] theorem resetEngine_dout (s : State) : (resetEngine s).dout = State.reset.dout := rfl
@[simp] theorem resetEngine_done (s : State) : (resetEngine s).done = State.reset.done := rfl
@[simp] theorem resetEngine_err (s : State) : (resetEngine s).err = State.reset.err := rfl
@[simp] theorem resetEngine_ovr (s : State) : (resetEngine s).ovr = State.reset.ovr := rfl
@[simp] theorem resetEngine_ctx (s : State) : (resetEngine s).ctx = State.reset.ctx := rfl
@[simp] theorem resetEngine_pending (s : State) : (resetEngine s).pending = State.reset.pending := rfl
@[simp] theorem resetEngine_script (s : State) : (resetEngine s).script = s.script := rfl
@[simp] theorem resetEngine_replies (s : State) : (resetEngine s).replies = s.replies := rfl

/-! ### recordReply -/

@[simp] theorem recordReply_key (r : Reply) (s : State) : (recordReply r s).key = s.key := rfl
@[simp] theorem recordReply_din (r : Reply) (s : State) : (recordReply r s).din = s.din := rfl
@[simp] theorem recordReply_dout (r : Reply) (s : State) : (recordReply r s).dout = s.dout := rfl
@[simp] theorem recordReply_done (r : Reply) (s : State) : (recordReply r s).done = s.done := rfl
@[simp] theorem recordReply_err (r : Reply) (s : State) : (recordReply r s).err = s.err := rfl
@[simp] theorem recordReply_ovr (r : Reply) (s : State) : (recordReply r s).ovr = s.ovr := rfl
@[simp] theorem recordReply_ctx (r : Reply) (s : State) : (recordReply r s).ctx = s.ctx := rfl
@[simp] theorem recordReply_pending (r : Reply) (s : State) : (recordReply r s).pending = s.pending := rfl
@[simp] theorem recordReply_script (r : Reply) (s : State) : (recordReply r s).script = s.script := rfl
@[simp] theorem recordReply_replies (r : Reply) (s : State) : (recordReply r s).replies = s.replies ++ [r] := rfl

/-! ### setScript -/

@[simp] theorem setScript_key (es : List Event) (s : State) : (setScript es s).key = s.key := rfl
@[simp] theorem setScript_din (es : List Event) (s : State) : (setScript es s).din = s.din := rfl
@[simp] theorem setScript_dout (es : List Event) (s : State) : (setScript es s).dout = s.dout := rfl
@[simp] theorem setScript_done (es : List Event) (s : State) : (setScript es s).done = s.done := rfl
@[simp] theorem setScript_err (es : List Event) (s : State) : (setScript es s).err = s.err := rfl
@[simp] theorem setScript_ovr (es : List Event) (s : State) : (setScript es s).ovr = s.ovr := rfl
@[simp] theorem setScript_ctx (es : List Event) (s : State) : (setScript es s).ctx = s.ctx := rfl
@[simp] theorem setScript_pending (es : List Event) (s : State) : (setScript es s).pending = s.pending := rfl
@[simp] theorem setScript_script (es : List Event) (s : State) : (setScript es s).script = es := rfl
@[simp] theorem setScript_replies (es : List Event) (s : State) : (setScript es s).replies = s.replies := rfl

end Sys2Proof.Machine
end

