-- ==== Sys2Proof/Laws/Ops.lean ====
section
/-! SUPPORT. Sys2Proof/Laws/Ops.lean: for each shared operation, one lemma that says everything it can do: the register
map, a host access, the three commands, the engine step, and a step. -/

namespace Sys2Proof.Machine

/-! ### The register map (20_memory.md rule R52) -/

theorem registerMap_key (i : Fin 8) : registerMap.lookup (0x10 + 4 * i.val) = some (.key i) := by
  revert i; decide

theorem registerMap_din (i : Fin 4) : registerMap.lookup (0x30 + 4 * i.val) = some (.din i) := by
  revert i; decide

theorem registerMap_dout (i : Fin 4) : registerMap.lookup (0x40 + 4 * i.val) = some (.dout i) := by
  revert i; decide

/-- Each mapped register with its offset: the register map read from the register's side. -/
def regOffset : Reg → Nat
  | .cmd => 0x00
  | .status => 0x04
  | .key i => 0x10 + 4 * i.val
  | .din i => 0x30 + 4 * i.val
  | .dout i => 0x40 + 4 * i.val

theorem registerMap_lookup_reg (r : Reg) : registerMap.lookup (regOffset r) = some r := by
  cases r with
  | cmd => rfl
  | status => rfl
  | key i => exact registerMap_key i
  | din i => exact registerMap_din i
  | dout i => exact registerMap_dout i

/-- Every offset of the map is its register's. -/
theorem registerMap_offset {off : Nat} {r : Reg} (h : registerMap.lookup off = some r) : off = regOffset r := by
  have hm : ∀ e ∈ registerMap, e.1 = regOffset e.2 := by decide
  have : (off, r) ∈ registerMap := by
    generalize registerMap = m at h
    induction m with
    | nil => simp at h
    | cons e es ih =>
      obtain ⟨k, v⟩ := e
      by_cases hk : off = k
      · subst hk; simp_all
      · have : (off == k) = false := by simpa using hk
        simp only [List.lookup_cons, this] at h
        exact List.mem_cons_of_mem _ (ih h)
  exact hm _ this

/-- Which accesses reach a register: the aligned 32-bit ones at its offset (rules R53 to R55). -/
theorem selectReg_eq_some_iff (width off : Nat) (r : Reg) :
    selectReg width off = some r ↔ width = 4 ∧ off = regOffset r := by
  unfold selectReg
  constructor
  · intro h
    split at h
    · next hw => exact ⟨hw.1, registerMap_offset h⟩
    · simp at h
  · rintro ⟨rfl, rfl⟩
    have : regOffset r % 4 = 0 := by cases r <;> simp only [regOffset] <;> omega
    simp [this, registerMap_lookup_reg]

/-- An access that no register's aligned 32-bit access is gets BusError. -/
theorem selectReg_eq_none_iff (width off : Nat) :
    selectReg width off = none ↔ ∀ r, ¬ (width = 4 ∧ off = regOffset r) := by
  rw [Option.eq_none_iff_forall_not_mem]
  exact forall_congr' fun r => not_congr (selectReg_eq_some_iff width off r)

/-! ### A host access (20_memory.md rules R53 to R59) -/

/-- The offset of an address in the window. -/
theorem accessEffect_window (a : Access) (s : State) (off : Nat) (ha : a.addr = Config.engineBase + off)
    (h : off ≤ 0xFF) : accessEffect a s = effectAt off a s := by
  have : inWindow a.addr := by unfold inWindow; omega
  rw [accessEffect, if_pos this, ha, Nat.add_sub_cancel_left]

theorem accessAnswer_window (a : Access) (s : State) (off : Nat) (ha : a.addr = Config.engineBase + off)
    (h : off ≤ 0xFF) : accessAnswer a s = answerAt off a s := by
  have : inWindow a.addr := by unfold inWindow; omega
  rw [accessAnswer, if_pos this, ha, Nat.add_sub_cancel_left]

/-- A write that reaches a register does what `writeReg` says; every other access leaves the engine as it is. -/
theorem accessEffect_cases (a : Access) (s : State) :
    accessEffect a s = s ∨
      ∃ r v, a = writeAccess a.host (regOffset r) v ∧ accessEffect a s = writeReg r v s := by
  obtain ⟨host, addr, width, kind⟩ := a
  by_cases hw : inWindow addr
  · obtain ⟨off, rfl⟩ : ∃ off, addr = Config.engineBase + off := ⟨addr - Config.engineBase, by unfold inWindow at hw; omega⟩
    have ho : off ≤ 0xFF := by unfold inWindow at hw; omega
    rw [accessEffect_window _ s off rfl ho]
    unfold effectAt
    cases hr : selectReg width off with
    | none => exact .inl rfl
    | some r =>
      cases kind with
      | read => exact .inl rfl
      | write v =>
        obtain ⟨rfl, rfl⟩ := (selectReg_eq_some_iff _ _ _).1 hr
        exact .inr ⟨r, v, rfl, rfl⟩
  · exact .inl (by simp [accessEffect, hw])

theorem regOffset_le (r : Reg) : regOffset r ≤ 0xFF := by cases r <;> simp [regOffset] <;> omega

/-- The effect of an aligned 32-bit write at a register's offset. -/
@[simp] theorem accessEffect_writeAccess (host : Nat) (r : Reg) (v : Word) (s : State) :
    accessEffect (writeAccess host (regOffset r) v) s = writeReg r v s := by
  rw [accessEffect_window _ s (regOffset r) rfl (regOffset_le r)]
  have : selectReg 4 (regOffset r) = some r := (selectReg_eq_some_iff _ _ _).2 ⟨rfl, rfl⟩
  simp [effectAt, writeAccess, this]

/-- The answer to an aligned 32-bit write at a register's offset. -/
@[simp] theorem accessAnswer_writeAccess (host : Nat) (r : Reg) (v : Word) (s : State) :
    accessAnswer (writeAccess host (regOffset r) v) s = .written := by
  rw [accessAnswer_window _ s (regOffset r) rfl (regOffset_le r)]
  have : selectReg 4 (regOffset r) = some r := (selectReg_eq_some_iff _ _ _).2 ⟨rfl, rfl⟩
  simp [answerAt, writeAccess, this]

/-- The answer to an aligned 32-bit read at a register's offset. -/
@[simp] theorem accessAnswer_readAccess (host : Nat) (r : Reg) (s : State) :
    accessAnswer (readAccess host (regOffset r)) s = .data (readReg r s) := by
  rw [accessAnswer_window _ s (regOffset r) rfl (regOffset_le r)]
  have : selectReg 4 (regOffset r) = some r := (selectReg_eq_some_iff _ _ _).2 ⟨rfl, rfl⟩
  simp [answerAt, readAccess, this]

/-- A read has no effect on the engine (rule R56). -/
theorem accessEffect_read (a : Access) (s : State) (h : a.kind = .read) : accessEffect a s = s := by
  unfold accessEffect effectAt
  split
  · rw [h]; cases selectReg a.width (a.addr - Config.engineBase) <;> rfl
  · rfl

/-! ### What a register write can change -/

/-- Issuing a command: accepted when idle, dropped when busy (rule R57). -/
theorem issueCommand_cases (v : Word) (s : State) :
    (s.pending = none ∧ issueCommand v s = acceptCommand v s) ∨
      (s.pending ≠ none ∧ issueCommand v s = dropCommand s) := by
  unfold issueCommand busy
  cases h : s.pending <;> simp

/-- A register write leaves CTX, DOUT, the script and the replies alone (rule R57). -/
theorem writeReg_frame (r : Reg) (v : Word) (s : State) :
    (writeReg r v s).ctx = s.ctx ∧ (writeReg r v s).dout = s.dout ∧ (writeReg r v s).script = s.script ∧
      (writeReg r v s).replies = s.replies := by
  cases r with
  | cmd => rcases issueCommand_cases v s with ⟨-, h⟩ | ⟨-, h⟩ <;> simp [writeReg, h]
  | status => simp [writeReg]
  | key i => simp [writeReg]
  | din i => simp [writeReg]
  | dout i => simp [writeReg]

/-- So does every access; only the access's own answer joins the replies. -/
theorem performAccess_frame (a : Access) (s : State) :
    (performAccess a s).ctx = s.ctx ∧ (performAccess a s).dout = s.dout ∧ (performAccess a s).script = s.script ∧
      (performAccess a s).replies = s.replies ++ [{ access := a, answer := accessAnswer a s }] := by
  rcases accessEffect_cases a s with h | ⟨r, v, -, h⟩
  · simp [performAccess, h]
  · obtain ⟨h1, h2, h3, h4⟩ := writeReg_frame r v s
    simp [performAccess, h, h1, h2, h3, h4]

/-! ### The commands (30_encoding.md rule R92) -/

/-- What a command's exec can do, given the pending snapshot: raise an error, or succeed with the one update that is its
own (rules R92, R150, R180, R181). -/
theorem exec_cases (i : Instr) (s : State) (p : Snapshot) (hp : s.pending = some p) :
    (∃ e, e ≠ .noError ∧ e ≠ .illegalCommand ∧ (e = .noContext → s.ctx.valid = false) ∧
      exec i s = .next (completeCommand (raiseError e s))) ∨
    (∃ keybits keywords size, i = .init keybits keywords ∧ acceptedKeySize keybits keywords = some size ∧
      exec i s = .next (completeCommand (reportSuccess (commitContext (buildContext size p.key) s)))) ∨
    (∃ y, s.ctx.valid = true ∧ (i = .encrypt ∨ i = .decrypt) ∧
      exec i s = .next (completeCommand (reportSuccess (writeResult y s)))) := by
  cases i with
  | init kb kw =>
    simp only [exec, execInit, hp]
    cases h : acceptedKeySize kb kw with
    | none => exact .inl ⟨.invalidKeyLength, by decide, by decide, by simp, rfl⟩
    | some size => exact .inr (.inl ⟨kb, kw, size, rfl, h, rfl⟩)
  | encrypt =>
    simp only [exec, execEncrypt, runTransform, hp]
    cases h : s.ctx.valid with
    | false => exact .inl ⟨.noContext, by decide, by decide, by simp, by simp⟩
    | true => exact .inr (.inr ⟨_, rfl, .inl trivial, rfl⟩)
  | decrypt =>
    simp only [exec, execDecrypt, runTransform, hp]
    cases h : s.ctx.valid with
    | false => exact .inl ⟨.noContext, by decide, by decide, by simp, by simp⟩
    | true => exact .inr (.inr ⟨_, rfl, .inr trivial, rfl⟩)

/-- With no command pending there is no engine step for exec to describe. -/
theorem exec_idle (i : Instr) (s : State) (hp : s.pending = none) : exec i s = .fault .engineStepNotEnabled := by
  cases i <;> simp [exec, execInit, execEncrypt, execDecrypt, runTransform, hp]

/-- What the engine step can do: nothing when idle; else it raises an error, commits a context, or writes a result. -/
theorem engineStep_cases (s : State) :
    (s.pending = none ∧ engineStep s = .next s) ∨
    ∃ p, s.pending = some p ∧
      ((∃ e, e ≠ .noError ∧ (e = .noContext → s.ctx.valid = false) ∧
          engineStep s = .next (completeCommand (raiseError e s))) ∨
        (∃ keybits keywords size, decode p.cmd = .ok (.init keybits keywords) ∧
          acceptedKeySize keybits keywords = some size ∧
          engineStep s = .next (completeCommand (reportSuccess (commitContext (buildContext size p.key) s)))) ∨
        (∃ y, s.ctx.valid = true ∧ (decode p.cmd = .ok .encrypt ∨ decode p.cmd = .ok .decrypt) ∧
          engineStep s = .next (completeCommand (reportSuccess (writeResult y s))))) := by
  cases hp : s.pending with
  | none => exact .inl ⟨rfl, by simp [engineStep, hp]⟩
  | some p =>
    refine .inr ⟨p, rfl, ?_⟩
    cases hd : decode p.cmd with
    | error e =>
      exact .inl ⟨.illegalCommand, by decide, by simp, by simp [engineStep, hp, hd, completeIllegal]⟩
    | ok i =>
      have he : engineStep s = exec i s := by simp [engineStep, hp, hd]
      rw [he]
      rcases exec_cases i s p hp with ⟨e, h1, -, h2, h3⟩ | ⟨kb, kw, size, rfl, h1, h2⟩ | ⟨y, h1, rfl | rfl, h2⟩
      · exact .inl ⟨e, h1, h2, h3⟩
      · exact .inr (.inl ⟨kb, kw, size, rfl, h1, h2⟩)
      · exact .inr (.inr ⟨y, h1, .inl rfl, h2⟩)
      · exact .inr (.inr ⟨y, h1, .inr rfl, h2⟩)

/-- The engine step always has a next state. -/
theorem engineStep_next (s : State) : ∃ t, engineStep s = .next t := by
  rcases engineStep_cases s with ⟨-, h⟩ | ⟨p, -, ⟨e, -, -, h⟩ | ⟨kb, kw, size, -, -, h⟩ | ⟨y, -, -, h⟩⟩ <;> exact ⟨_, h⟩

/-- The engine step looks at neither the script nor the replies, and keeps both. -/
theorem engineStep_script (s : State) (es : List Event) (t : State) (h : engineStep s = .next t) :
    engineStep (setScript es s) = .next (setScript es t) := by
  obtain ⟨key, din, dout, done, err, ovr, ctx, pending, script, replies⟩ := s
  cases pending with
  | none =>
    simp only [engineStep, Host.Outcome.next.injEq] at h
    subst h; rfl
  | some p =>
    unfold engineStep at h ⊢
    simp only [setScript] at h ⊢
    cases hd : decode p.cmd with
    | error e =>
      simp only [hd, Host.Outcome.next.injEq] at h ⊢
      subst h; rfl
    | ok i =>
      simp only [hd] at h ⊢
      cases i with
      | init kb kw =>
        simp only [exec, execInit] at h ⊢
        cases ha : acceptedKeySize kb kw <;> simp only [ha, Host.Outcome.next.injEq] at h ⊢ <;> subst h <;> rfl
      | encrypt =>
        simp only [exec, execEncrypt, runTransform] at h ⊢
        cases hv : ctx.valid <;> simp [hv, Host.Outcome.next.injEq] at h ⊢ <;> subst h <;> rfl
      | decrypt =>
        simp only [exec, execDecrypt, runTransform] at h ⊢
        cases hv : ctx.valid <;> simp [hv, Host.Outcome.next.injEq] at h ⊢ <;> subst h <;> rfl

/-! ### A step -/

/-- What a step can do: the engine step, a host access, one turn of WAIT, or the reset event. -/
theorem step_cases (s : State) :
    (s.script = [] ∧ step s = engineStep s) ∨
    (∃ rest, s.script = .engineStep :: rest ∧ step s = engineStep (setScript rest s)) ∨
    (∃ a rest, s.script = .access a :: rest ∧ step s = .next (performAccess a (setScript rest s))) ∨
    (∃ host rest, s.script = .wait host :: rest ∧ step s = .next (pollStatus host (setScript rest s))) ∨
    (∃ rest, s.script = .reset :: rest ∧ step s = .next (resetEngine (setScript rest s))) := by
  unfold step
  cases h : s.script with
  | nil => exact .inl ⟨rfl, rfl⟩
  | cons e rest =>
    cases e with
    | access a => exact .inr (.inr (.inl ⟨a, rest, rfl, rfl⟩))
    | engineStep => exact .inr (.inl ⟨rest, rfl, rfl⟩)
    | wait host => exact .inr (.inr (.inr (.inl ⟨host, rest, rfl, rfl⟩)))
    | reset => exact .inr (.inr (.inr (.inr ⟨rest, rfl, rfl⟩)))

/-- One turn of WAIT changes nothing of the engine: it reads STATUS, goes on where BUSY = 1 (rule R95), and leaves its
reply only where it ends the loop (rule R240). -/
theorem pollStatus_eq (host : Nat) (s : State) :
    pollStatus host s = { s with
      script := if busy s then .engineStep :: .wait host :: s.script else s.script
      replies := if busy s then s.replies
        else s.replies ++ [{ access := readAccess host 0x04, answer := .data (statusWord s) }] } := by
  have h1 : accessEffect (readAccess host 0x04) s = s := accessEffect_read _ _ rfl
  have h2 : accessAnswer (readAccess host 0x04) s = .data (statusWord s) := accessAnswer_readAccess host .status s
  unfold pollStatus performAccess
  rw [h1, h2]
  cases busy s <;> rfl

/-! ### The observation (rule R240) -/

/-- A further reply adds its value, if it has one. -/
@[simp] theorem readValues_append (rs : List Reply) (r : Reply) :
    readValues (rs ++ [r]) = readValues rs ++ r.answer.readValue.toList := by
  cases h : r.answer.readValue <;> simp [readValues, h]

/-- A further reply adds its place if it is BusError. -/
@[simp] theorem busErrors_append (rs : List Reply) (r : Reply) :
    busErrors (rs ++ [r]) = busErrors rs ++ if r.answer = .busError then [rs.length] else [] := by
  by_cases h : r.answer = .busError <;> simp [busErrors, List.zipIdx_append, h]

/-- The observation looks at STATUS, DOUT, DIN and the answers only. -/
theorem observe_congr {s t : State} (h1 : statusWord t = statusWord s) (h2 : t.dout = s.dout) (h3 : t.din = s.din)
    (h4 : readValues t.replies = readValues s.replies) (h5 : busErrors t.replies = busErrors s.replies) :
    t.observe = s.observe := by
  simp only [State.observe, h1, h2, h3, h4, h5]

/-! ### Runs -/

/-- A run of one step more is the step and then the run. -/
theorem runSteps_succ {s t : State} (h : step s = .next t) (n : Nat) : runSteps (n + 1) s = runSteps n t := by
  simp only [runSteps, h]

/-- A run of m + n steps is the run of m and then the run of n. -/
theorem runSteps_add {s t : State} {m : Nat} (h : runSteps m s = .next t) (n : Nat) :
    runSteps (m + n) s = runSteps n t := by
  induction m generalizing s with
  | zero => cases h; simp
  | succ m ih =>
    cases hs : step s with
    | next u =>
      rw [runSteps_succ hs] at h
      rw [Nat.succ_add, runSteps_succ hs, ih h]
    | fault r => simp [runSteps, hs] at h
    | refused r => simp [runSteps, hs] at h

/-- A run that has ended goes no further. -/
theorem runToEnd_ended {s : State} (h : s.runEnded) (n : Nat) : runToEnd n s = some s := by
  cases n <;> exact if_pos h

/-- A run that has not ended goes on with its next step. -/
theorem runToEnd_succ {s t : State} (h : ¬ s.runEnded) (hs : step s = .next t) (n : Nat) :
    runToEnd (n + 1) s = runToEnd n t := by
  simp only [runToEnd, if_neg h, hs]

/-- The host's run of the machine is runSteps. -/
theorem core_run (n : Nat) (s : State) : Host.Core.run core n s = runSteps n s := by
  induction n generalizing s with
  | zero => rfl
  | succ n ih =>
    refine (Host.Core.run.eq_2 core s n).trans ?_
    cases hs : core.step s with
    | next t => exact (ih t).trans (runSteps_succ (show step s = .next t from hs) n).symm
    | fault r => simp [runSteps, show step s = .fault r from hs]; rfl
    | refused r => simp [runSteps, show step s = .refused r from hs]; rfl

end Sys2Proof.Machine
end

