-- ==== Sys2Proof/Laws/Commands.lean ====
section
/-! SUPPORT. Sys2Proof/Laws/Commands.lean: what the commands' own functions answer: INIT's test of its operands (rule
R151), the entries of the decryption table (rules R158, R159), which keys a transform reads (rule R185), and the XOR of
bytes that the diffusion layer is made of (rule R121). -/

namespace Sys2Proof.Machine

/-- INIT accepts a key length exactly when it is supported and enough key words are supplied (rule R151). -/
theorem acceptedKeySize_eq_some_iff (keybits keywords : Nat) (size : KeySize) :
    acceptedKeySize keybits keywords = some size ↔ keybits = keyBits size ∧ keyWords size ≤ keywords := by
  have key : ∀ size', (if keywords < keyWords size' then none else some size') = some size ↔
      size' = size ∧ keyWords size ≤ keywords := by
    intro size'
    by_cases h : keywords < keyWords size'
    · rw [if_pos h]; constructor
      · intro x; cases x
      · rintro ⟨rfl, x⟩; omega
    · rw [if_neg h, Option.some.injEq]; constructor
      · rintro rfl; exact ⟨rfl, by omega⟩
      · exact fun x => x.1
  unfold acceptedKeySize supportedKeySize
  split
  · next h =>
    have : keybits ≠ keyBits size := by
      rintro rfl; cases size <;> simp [keyBits] at h
    simp [this]
  · next size' h =>
    have hk : keybits = keyBits size' := by
      split at h
      · cases h; assumption
      · split at h
        · cases h; assumption
        · split at h
          · cases h; assumption
          · cases h
    rw [key, hk]
    constructor
    · rintro ⟨rfl, h⟩; exact ⟨rfl, h⟩
    · rintro ⟨h1, h2⟩
      refine ⟨?_, h2⟩
      cases size' <;> cases size <;> first | rfl | (simp [keyBits] at h1)

/-- Each entry of the decryption table. -/
theorem keyAt_decryptionKeys (ek : Vector Block 17) (r i : Nat) (h : i < 17) :
    keyAt (decryptionKeys ek r) i = decryptionKey ek r i := by
  unfold keyAt decryptionKeys
  simp [Vector.getD, h]

/-- A context that INIT builds has a round count of at least 13 and at most 17. -/
theorem roundCountOf_bounds (size : KeySize) :
    13 ≤ roundNumber (roundCountOf size) ∧ roundNumber (roundCountOf size) ≤ 17 := by
  cases size <;> decide

/-- Rounds 1 to n read the first n keys only. -/
theorem runRounds_congr {k k' : Vector Block 17} {n : Nat} (h : ∀ i, i < n → keyAt k i = keyAt k' i) (p : Block) :
    runRounds k n p = runRounds k' n p := by
  induction n with
  | zero => rfl
  | succ n ih =>
    simp only [runRounds, roundStep, Nat.add_sub_cancel, ih fun i hi => h i (by omega), h n (by omega)]

/-- The output words of the block they came from. -/
@[simp] theorem outputWords_inputBlock (d : Vector Word 4) : outputWords (inputBlock d) = d := by
  obtain ⟨h0, h1, h2, h3⟩ := wordAt_blockOfWords d[0] d[1] d[2] d[3]
  unfold outputWords inputBlock
  simp only [h0, h1, h2, h3]
  apply Vector.ext
  intro i hi
  interval_cases i <;> rfl

/-- The XOR over two lists of bytes. -/
theorem xorBytes_append (x : Block) (l m : List Nat) : xorBytes x (l ++ m) = xorBytes x l ^^^ xorBytes x m := by
  induction l with
  | nil => simp [xorBytes]
  | cons j js ih => simp only [List.cons_append, xorBytes, ih, BitVec.xor_assoc]

/-- The order of the list does not matter. -/
theorem xorBytes_perm (x : Block) {l m : List Nat} (h : l.Perm m) : xorBytes x l = xorBytes x m := by
  induction h with
  | nil => rfl
  | cons j _ ih => simp only [xorBytes, ih]
  | swap a b l => simp only [xorBytes, ← BitVec.xor_assoc, BitVec.xor_comm (byteAt x b)]
  | trans _ _ h1 h2 => exact h1.trans h2

/-- The XOR over bytes of a diffused value is the XOR over the rows of those bytes. -/
theorem xorBytes_diffuse (x : Block) (l : List Nat) (h : ∀ j ∈ l, j < 16) :
    xorBytes (diffuse x) l = xorBytes x (l.flatMap fun j => diffusionRows.getD j []) := by
  induction l with
  | nil => rfl
  | cons j js ih =>
    simp only [List.flatMap_cons, xorBytes_append, xorBytes]
    rw [byteAt_diffuse _ _ (h j (by simp)), ih fun k hk => h k (List.mem_cons_of_mem _ hk)]

end Sys2Proof.Machine
end

