-- ==== Sys2Proof/Laws/Decode.lean ====
section
/-! SUPPORT. Sys2Proof/Laws/Decode.lean: the fields of a command word as numbers (30_encoding.md rules R81 to R85), and
what the decoder can answer. -/

namespace Sys2Proof

/-- OPC as a number. -/
theorem opcField_toNat (w : Word) : (opcField w).toNat = w.toNat % 16 := by
  simp [opcField, BitVec.extractLsb'_toNat]

/-- KEYWORDS as a number. -/
theorem keywordsField_toNat (w : Word) : (keywordsField w).toNat = w.toNat / 256 % 16 := by
  simp [keywordsField, BitVec.extractLsb'_toNat, Nat.shiftRight_eq_div_pow]

/-- KEYBITS as a number. -/
theorem keybitsField_toNat (w : Word) : (keybitsField w).toNat = w.toNat / 65536 := by
  have := w.isLt
  simp [keybitsField, BitVec.extractLsb'_toNat, Nat.shiftRight_eq_div_pow]
  omega

/-- OPC has a given value when the word modulo 16 has. -/
theorem opcField_eq_iff (w : Word) (n : Nat) (h : n < 16) : opcField w = BitVec.ofNat 4 n ↔ w.toNat % 16 = n := by
  rw [← BitVec.toNat_inj, opcField_toNat, BitVec.toNat_ofNat, Nat.mod_eq_of_lt (show n < 2 ^ 4 from h)]

/-- What the decoder answers an instruction for. -/
theorem decode_ok_iff (w : Word) (i : Instr) :
    decode w = .ok i ↔
      (opcField w = 0x1 ∧ i = .init (keybitsField w).toNat (keywordsField w).toNat) ∨
      (opcField w = 0x2 ∧ i = .encrypt) ∨ (opcField w = 0x3 ∧ i = .decrypt) := by
  unfold decode
  by_cases h1 : opcField w = 1#4
  · simp [h1, eq_comm]
  · by_cases h2 : opcField w = 2#4
    · simp [h2, eq_comm]
    · by_cases h3 : opcField w = 3#4
      · simp [h3, eq_comm]
      · simp [h1, h2, h3]

end Sys2Proof
end

