-- ==== Sys2Proof/Laws/PerInstr.lean ====
section
/-! SUPPORT. Sys2Proof/Laws/PerInstr.lean: statements made for every instruction, one lemma per constructor of Instr.
EncodeCarriesOpcode: the word of an instruction carries its OPC (30_encoding.md rule R83), whatever its operands. -/

namespace Sys2Proof.Laws.EncodeCarriesOpcode

/-- The OPC field of an instruction's word is the instruction's OPC. -/
def Statement (i : Instr) : Prop := opcField (encode i) = opcode i

theorem init (keybits keywords : Nat) : Statement (.init keybits keywords) := by
  unfold Statement opcField encode
  rw [Machine.extract_append_low _ _ _ _ (by decide), Machine.extract_whole]

theorem encrypt : Statement .encrypt := by unfold Statement; decide

theorem decrypt : Statement .decrypt := by unfold Statement; decide

end Sys2Proof.Laws.EncodeCarriesOpcode
end

