-- ==== Sys2Proof/Machine/TableForms.lean ====
section
/-! DEFINITION. Sys2Proof/Machine/TableForms.lean: the algebraic forms of SB1 and SB2 (40_tables.md rule R109). They are
a check and nothing else: rules R100 and R101 define the tables, no meaning reads this file, and Laws/Tables.lean proves
that both tables have these forms at all 256 entries. -/

namespace Sys2Proof.Machine

/-- Multiplication in GF(2^8) modulo x^8 + x^4 + x^3 + x + 1, 0x11b: Horner's rule over the bits of `b`, the highest
first. -/
def gfMul (a b : Nat) : Nat :=
  (List.range 8).foldl (fun acc i =>
    let d := 2 * acc
    let r := if d ≥ 256 then d ^^^ 0x11b else d
    if b.testBit (7 - i) then r ^^^ a else r) 0

/-- `x^(2^n)`. -/
def gfFrobenius (x : Nat) : Nat → Nat
  | 0 => x
  | n + 1 => gfMul (gfFrobenius x n) (gfFrobenius x n)

/-- The product of `x^(2^n)` over the exponents `ns`. -/
def gfPowers (x : Nat) (ns : List Nat) : Nat := ns.foldl (fun acc n => gfMul acc (gfFrobenius x n)) 1

/-- `g(x) = x^254`: 254 is 2 + 4 + 8 + 16 + 32 + 64 + 128. -/
def gfInverse (x : Nat) : Nat := gfPowers x [1, 2, 3, 4, 5, 6, 7]

/-- `x^247`: 247 is 1 + 2 + 4 + 16 + 32 + 64 + 128. -/
def gfPow247 (x : Nat) : Nat := gfPowers x [0, 1, 2, 4, 5, 6, 7]

/-- The images of the basis bytes 0x01, 0x02, ..., 0x80 under the linear map M. -/
def sb2Images : List Byte := [0xac, 0xc5, 0x12, 0xcf, 0x5b, 0x5f, 0x85, 0xee]

/-- `M(v)`, the XOR of the images of v's set bits. -/
def sb2Linear (v : Byte) : Byte :=
  (List.range 8).foldl (fun acc i => if v.getLsbD i then acc ^^^ sb2Images.getD i 0 else acc) 0

/-- SB1's form: `b ⊕ rotl8(b,1) ⊕ rotl8(b,2) ⊕ rotl8(b,3) ⊕ rotl8(b,4) ⊕ 0x63` with `b = g(x)`. -/
def sb1Form (x : Byte) : Byte :=
  let b : Byte := BitVec.ofNat 8 (gfInverse x.toNat)
  b ^^^ b.rotateLeft 1 ^^^ b.rotateLeft 2 ^^^ b.rotateLeft 3 ^^^ b.rotateLeft 4 ^^^ 0x63

/-- SB2's form: `M(x^247) ⊕ 0xe2`. -/
def sb2Form (x : Byte) : Byte := sb2Linear (BitVec.ofNat 8 (gfPow247 x.toNat)) ^^^ 0xe2

end Sys2Proof.Machine
end

