-- ==== Sys2Proof/Laws/Tables.lean ====
section
/-! SUPPORT. Sys2Proof/Laws/Tables.lean: SB1 and SB2 have the algebraic forms of 40_tables.md rule R109. -/

namespace Sys2Proof.Machine

/-- SB1 has its form at all 256 entries. -/
theorem sb1_eq_form : ∀ x : Byte, lookup sb1 x = sb1Form x := by decide +kernel

/-- SB2 has its form at all 256 entries. -/
theorem sb2_eq_form : ∀ x : Byte, lookup sb2 x = sb2Form x := by decide +kernel

/-- `g(0) = 0`, and g is the multiplicative inverse elsewhere. -/
theorem gfInverse_mul : gfInverse 0 = 0 ∧ ∀ x : Byte, x ≠ 0 → gfMul x.toNat (gfInverse x.toNat) = 1 := by
  decide +kernel

end Sys2Proof.Machine
end

