-- ==== Sys2Proof/Tests/Slice0.lean ====
section
/-! SUPPORT. Sys2Proof/Tests/Slice0.lean: the model's own tests, and for each obligation that has hypotheses a witness
that meets them. Expected values are the spec's: words written out from 30_encoding.md, the values of 95_test_vectors.md
and the table entries of its L2.1. -/

namespace Sys2Proof.Machine

/-! ### Fixtures -/

/-- The eight key words of the 256-bit key of 95_test_vectors.md L1.1; its first four and six are the other keys. -/
def testKey : Vector Word 8 :=
  #v[0x00010203, 0x04050607, 0x08090a0b, 0x0c0d0e0f, 0x10111213, 0x14151617, 0x18191a1b, 0x1c1d1e1f]

/-- The plaintext of L1.1. -/
def testBlock : Vector Word 4 := #v[0x00112233, 0x44556677, 0x8899aabb, 0xccddeeff]

/-- The plaintext as one value. -/
def pt : Block := 0x00112233445566778899aabbccddeeff

/-- A snapshot of the test key and plaintext. -/
def snap (cmd : Word) : Snapshot := { cmd := cmd, key := testKey, din := testBlock }

/-- An engine with no context, with the word `cmd` pending. -/
def waiting (cmd : Word) : State := { State.reset with pending := some (snap cmd) }

/-- An idle engine with a context of the test key. -/
def ready (size : KeySize) : State := { State.reset with ctx := buildContext size testKey, done := true }

/-- The same engine with a command pending. -/
def readyWaiting (size : KeySize) (cmd : Word) : State :=
  { State.reset with ctx := buildContext size testKey, pending := some (snap cmd) }

/-- A state with its script replaced. -/
def State.before (s : State) (es : List Event) : State := { s with script := es }

/-! ### WellFormed and Decode -/

theorem test_keybits_beyond_field_refused : (Instr.init 65536 0).wellFormed = false := by decide

theorem test_keywords_beyond_field_refused : (Instr.init 0 16).wellFormed = false := by decide

/-- "Every value 0 to 65535 can be encoded" (rule R84). -/
theorem test_unsupported_size_well_formed : (Instr.init 65535 15).wellFormed = true := by decide

/-- L2.9: INIT128, bit by bit: KEYBITS 128, KEYWORDS 4, OPC 1 (rule R81). -/
theorem test_decode_init128 : decode 0b0000000010000000_0000_0100_0000_0001 = .ok (.init 128 4) := by decide

/-- The fields do not overlap: KEYBITS 1 and KEYWORDS 8 (rule R81). -/
theorem test_decode_init_fields : decode 0b0000000000000001_0000_1000_0000_0001 = .ok (.init 1 8) := by decide

/-- Format B ignores bits 31:4 (rules R82, R86). -/
theorem test_decode_encrypt : decode 0b1000000000000000000000000001_0010 = .ok .encrypt := by decide

theorem test_decode_decrypt : decode 0b0000000000000000000000000000_0011 = .ok .decrypt := by decide

theorem test_decode_illegal : decode 0b0000000000000000000000000000_0100 = .error (.illegalOpcode 4) := by decide

theorem test_table_word_decrypt : decodeTableWord 32 0x00000003 = some .decrypt := by decide

/-! ### Tables, datapath and rotations (L2.1 to L2.5) -/

theorem test_tables_at_e2 :
    lookup sb1 0xe2 = 0x98 ∧ lookup sb2 0xe2 = 0x5b ∧ lookup sb3 0xe2 = 0x3b ∧ lookup sb4 0xe2 = 0x00 := by decide

theorem test_diffuse_pt : diffuse pt = 0x3322110055447766aabb8899ccddeeff := by decide +kernel

theorem test_diffuse_last_byte : diffuse 1 = 0x00010100010100000100010000000001 := by decide +kernel

theorem test_sl1_pt : sl1 pt = 0x63fa94e31b83d319c402622f4b449960 := by decide +kernel

theorem test_sl2_pt : sl2 pt = 0x527e93fb862433269726ac8a27a12881 := by decide +kernel

theorem test_fo_constant : fo 0 c1 = 0xa53794ccdd786fe0dc7189c6b63c3ea1 := by decide +kernel

theorem test_fe_constant : fe 0 c2 = 0x4b42e4f1f0065ee7a91a4facc83d6211 := by decide +kernel

theorem test_rotate_right : ror pt 19 = 0xbddfe0022446688aaccef1133557799b ∧ ror pt 0 = pt := by decide +kernel

theorem test_rotate_left : rol pt 61 = 0xf1133557799bbddfe0022446688aacce := by decide +kernel

/-! ### One step of each command (L1.1, L2.6) -/

/-- L2.6, 192-bit key: EK[8], KEYSIZE and ROUNDS after INIT192 placed as the next command. -/
theorem test_init_192 :
    (nextState (step (State.withFetchWord { State.reset with key := testKey } 32 0x00C00601))).map
      (fun t => (keyAt t.ctx.ek 8, statusWord t)) =
    some (0x36c83fac72fcbb12b498804d0fdf353d, 0x000F0406) := by decide +kernel

/-- Rules R151 and R161: one key word too few for 256 bits; ERR 1, and the context of before. -/
theorem test_init_short_key :
    (nextState (step (readyWaiting .k128 0x01000701))).map (fun t => (t.err, t.done, busy t, roundNumber t.ctx.rounds)) =
    some (.invalidKeyLength, true, false, 13) := by decide +kernel

/-- L1.1, vector 1. -/
theorem test_encrypt_vector1 :
    (nextState (step (readyWaiting .k128 0x00000002))).map (fun t => t.dout) =
    some #v[0xd718fbd6, 0xab644c73, 0x9da95f3b, 0xe6451778] := by decide +kernel

/-- L1.1, vector 3. -/
theorem test_encrypt_vector3 :
    (nextState (step (readyWaiting .k256 0x00000002))).map (fun t => t.dout) =
    some #v[0xf92bd7c7, 0x9fb72e2f, 0x2b8f80c1, 0x972d24fc] := by decide +kernel

/-- L1.1, scenario 4 for vector 2: the ciphertext decrypts to the plaintext. -/
theorem test_decrypt_vector2 :
    (nextState (step { ready .k192 with
      pending := some { cmd := 3, key := testKey, din := #v[0x26449c18, 0x05dbe7aa, 0x25a468ce, 0x263a9e79] } })).map
        (fun t => t.dout) = some testBlock := by decide +kernel

/-- Rule R188: no context, so DOUT stays and ERR is 2. -/
theorem test_decrypt_no_context :
    (nextState (step (waiting 0x00000003))).map (fun t => (t.dout, statusWord t)) =
    some (State.reset.dout, 0x00000022) := by decide +kernel

/-- Rule R87: ERR is 3. -/
theorem test_illegal_command :
    (nextState (step (waiting 0x00000000))).map statusWord = some 0x00000032 := by decide +kernel

/-- A placed command word of shorter length keeps the bits above it 0: 4 bits of 0xFFF2 are ENCRYPT. -/
theorem test_placed_short_word : decodeTableWord 4 0xFFF2 = some .encrypt := by decide

/-! ### The register window -/

/-- Rules R52 to R55: mapped, misaligned, narrow, unmapped. -/
theorem test_select_reg :
    selectReg 4 0x2C = some (.key 7) ∧ selectReg 4 0x4C = some (.dout 3) ∧ selectReg 4 0x31 = none ∧
    selectReg 2 0x30 = none ∧ selectReg 4 0x0C = none ∧ selectReg 4 0x50 = none := by decide

/-- Rule R58: a read of KEY returns 0, one of DIN its value. -/
theorem test_read_registers :
    readReg (.key 1) { State.reset with key := testKey } = 0 ∧
    readReg (.din 1) { State.reset with din := testBlock } = 0x44556677 := by decide

/-- Rules R31 and R205: a write of CMD while busy sets OVR, and CLROVR clears it; other bits of the datum do not. -/
theorem test_overrun :
    (writeReg .cmd 0x2 (waiting 0x3)).ovr = true ∧ (writeReg .cmd 0x2 (waiting 0x3)).pending = some (snap 0x3) ∧
    (writeReg .status 0x100 (dropCommand State.reset)).ovr = false ∧
    (writeReg .status 0xFFFFFEFF (dropCommand State.reset)).ovr = true := by decide

/-- Rule R230. -/
theorem test_reset_event :
    nextState (step ((readyWaiting .k128 0x2).before [.reset])) = some State.reset := by decide +kernel

/-- Without an access on the bus nothing happens: the machine after reset, with nothing placed, is idle (rule R215). -/
theorem test_reset_is_idle : step State.reset = .next State.reset := rfl

/-- Rules R95 and R240: a poll that finds BUSY = 1 leaves no reply, and the WAIT goes on after an engine step. -/
theorem test_busy_poll_leaves_no_reply :
    (pollStatus 5 (waiting 0x2)).replies = [] ∧ (pollStatus 5 (waiting 0x2)).script = [.engineStep, .wait 5] := by decide

/-- Rule R240: of a KEY write, a read, a BusError and another read, only the values read and the BusError's place are
observed. -/
theorem test_observation :
    State.observe { State.reset with replies := [⟨writeAccess 0 0x10 1, .written⟩, ⟨readAccess 0 0x30, .data 7⟩,
      ⟨readAccess 0 0x08, .busError⟩, ⟨readAccess 0 0x34, .data 9⟩] } =
    { status := 0, dout := State.reset.dout, din := State.reset.din, reads := [7, 9], busErrors := [2] } := by
  simp only [State.observe]; decide

/-- Rule R240: with only a reset to come and no command pending the run has ended, and its observation is not the reset
state's; with a host's access to come it has not. -/
theorem test_run_ends_before_reset :
    (runToEnd 5 ({ State.reset with done := true }.before [.engineStep, .reset])).map (fun t => statusWord t) =
      some 0x00000002 ∧
    ¬ (State.reset.before [.reset, .wait 0]).runEnded ∧ ¬ ((waiting 0x2).before [.engineStep]).runEnded := by decide

/-! ### Witnesses: each obligation's hypotheses can be met -/

/-- 0x00800401 and 0x0080F4F1 differ in reserved bits only, and so do two ENCRYPT words. -/
theorem witness_ReservedBitsAreIgnored :
    (0x00800401#32).toNat % 16 = (0x0080F4F1#32).toNat % 16 ∧ (0x00800401#32).toNat % 16 = 1 ∧
    (0x00800401#32).toNat / 65536 = (0x0080F4F1#32).toNat / 65536 ∧
    (0x00800401#32).toNat / 256 % 16 = (0x0080F4F1#32).toNat / 256 % 16 ∧
    (0x00000002#32).toNat % 16 = (0xFFFFFFF2#32).toNat % 16 ∧
    State.reset.engineNext ∧ (State.reset.before [.engineStep]).engineNext :=
  ⟨by decide, by decide, by decide, by decide, by decide, .inl rfl, .inr ⟨[], rfl⟩⟩

theorem witness_DecodeOfEncodeIsTheInstruction :
    (Instr.init 65535 15).WellFormed ∧ (Instr.init 0 0).WellFormed ∧ Instr.encrypt.WellFormed ∧ Instr.decrypt.WellFormed := by
  decide

theorem witness_DecodedWordReencodesWithReservedBitsClear :
    decode 0xFFFFFFF1 = .ok (.init 65535 15) ∧ decode 0xFFFFFFF2 = .ok .encrypt ∧ decode 0x3 = .ok .decrypt := by decide

/-- Every OPC value of each clause: 0, 4 and 15 for the last. -/
theorem witness_DecoderFollowsOpcodeTable :
    (0xFFFFFFF1#32).toNat % 16 = 1 ∧ (0xFFFFFFF2#32).toNat % 16 = 2 ∧ (0x3#32).toNat % 16 = 3 ∧
    (0x0#32).toNat % 16 = 0 ∧ 4 ≤ (0x4#32).toNat % 16 ∧ 4 ≤ (0xFFFFFFFF#32).toNat % 16 := by decide

theorem witness_AssemblesTheSyntaxTable : (0 ≤ 65535 ∧ 0 ≤ 15) ∧ (65535 ≤ 65535 ∧ 15 ≤ 15) := by decide

theorem witness_StepRunsThePendingCommand :
    (waiting 0x2).pending = some (snap 0x2) ∧ decode (snap 0x2).cmd = .ok .encrypt ∧ (waiting 0x2).script = [] ∧
    ((waiting 0x2).before [.engineStep]).pending = some (snap 0x2) ∧
    ((waiting 0x2).before [.engineStep]).script = .engineStep :: [] := by decide

theorem witness_PlacedCommandRunsNext :
    decodeTableWord 32 0x00800401 = some (.init 128 4) ∧ decodeTableWord 32 0x2 = some .encrypt ∧
    decodeTableWord 32 0x3 = some .decrypt := by decide

theorem witness_IllegalCommandCompletesWithError :
    (waiting 0x0).pending = some (snap 0x0) ∧ (snap 0x0).cmd.toNat % 16 = 0 ∧ 4 ≤ (snap 0x4).cmd.toNat % 16 ∧
    4 ≤ (snap 0xF).cmd.toNat % 16 ∧ (waiting 0xF).script = [] ∧
    ((waiting 0x4).before [.engineStep, .reset]).script = .engineStep :: [.reset] := by decide

theorem witness_IdleEngineKeepsItsState :
    State.reset.pending = none ∧ State.reset.script = [] ∧
    (State.reset.before [.engineStep]).pending = none ∧ (State.reset.before [.engineStep]).script = .engineStep :: [] := by
  decide

/-- The three accepted sizes, each with the fewest key words, and one with more. -/
theorem witness_InitCommitsTheContext :
    (waiting 0x1).pending = some (snap 0x1) ∧ 128 / 32 ≤ 4 ∧ 192 / 32 ≤ 6 ∧ 256 / 32 ≤ 8 ∧ 128 / 32 ≤ 15 := by decide

/-- INIT with each accepted size answers a next state. -/
theorem witness_InitDerivesEncryptionKeys :
    (waiting 0x1).pending = some (snap 0x1) ∧ 128 / 32 ≤ 4 ∧ 192 / 32 ≤ 6 ∧ 256 / 32 ≤ 8 ∧
    (∃ t, exec (.init 128 4) (waiting 0x1) = .next t) ∧ (∃ t, exec (.init 192 6) (waiting 0x1) = .next t) ∧
    ∃ t, exec (.init 256 8) (waiting 0x1) = .next t :=
  ⟨by decide, by decide, by decide, by decide, ⟨_, rfl⟩, ⟨_, rfl⟩, ⟨_, rfl⟩⟩

/-- The same states meet the hypotheses; the interior keys run from 1 to R-2, and the slots beyond from R to 16 (none
for R = 17). -/
theorem witness_InitDerivesDecryptionKeys :
    (waiting 0x1).pending = some (snap 0x1) ∧ (∃ t, exec (.init 128 4) (waiting 0x1) = .next t) ∧
    (∃ t, exec (.init 256 8) (waiting 0x1) = .next t) ∧
    (1 ≤ 1 ∧ 1 ≤ 13 - 2) ∧ (1 ≤ 11 ∧ 11 ≤ 13 - 2) ∧ (13 ≤ 13 ∧ 13 ≤ 16) ∧ (13 ≤ 16 ∧ 16 ≤ 16) :=
  ⟨by decide, ⟨_, rfl⟩, ⟨_, rfl⟩, by decide, by decide, by decide, by decide⟩

/-- Unsupported sizes next to the supported ones and at the ends of the field, and one key word too few. -/
theorem witness_InitRejectsBadKeyLength :
    (waiting 0x1).pending = some (snap 0x1) ∧
    (∀ k ∈ [0, 127, 129, 160, 255, 257, 65535], k ≠ 128 ∧ k ≠ 192 ∧ k ≠ 256) ∧
    3 < 128 / 32 ∧ 5 < 192 / 32 ∧ 7 < 256 / 32 := by decide

/-- Two keys that differ at words 4 to 7 only. -/
theorem witness_InitReadsOnlyItsKeyWords :
    (∀ i : Fin 8, i.val < 128 / 32 → testKey[i] = (testKey.set 4 0)[i]) ∧ testKey ≠ testKey.set 4 0 := by decide

theorem witness_EncryptWritesItsResult :
    (readyWaiting .k128 0x2).pending = some (snap 0x2) ∧ (readyWaiting .k128 0x2).ctx.valid = true := ⟨rfl, rfl⟩

theorem witness_DecryptWritesItsResult :
    (readyWaiting .k256 0x3).pending = some (snap 0x3) ∧ (readyWaiting .k256 0x3).ctx.valid = true := ⟨rfl, rfl⟩

/-- The first and the last round of each parity. -/
theorem witness_TransformFollowsTheRounds :
    (1 ≤ 1 ∧ 1 ≤ 13 - 2 ∧ 1 % 2 = 1) ∧ (1 ≤ 15 ∧ 15 ≤ 17 - 2 ∧ 15 % 2 = 1) ∧ (1 ≤ 2 ∧ 2 ≤ 13 - 2 ∧ 2 % 2 = 0) ∧
    (1 ≤ 14 ∧ 14 ≤ 17 - 2 ∧ 14 % 2 = 0) := by decide

theorem witness_TransformWithoutContextRaisesNoContext :
    (waiting 0x2).pending = some (snap 0x2) ∧ (waiting 0x2).ctx.valid = false := by decide

/-- INIT's contexts have fields and tables that agree (rules R36, R158). -/
theorem buildContext_agrees (size : KeySize) (key : Vector Word 8) :
    (buildContext size key).consistent ∧ (buildContext size key).tablesAgree := by
  constructor
  · cases size <;> simp [buildContext, Context.consistent, roundCountOf]
  · simp [buildContext, Context.tablesAgree]

/-- A table that differs at the first inactive entry. -/
theorem witness_TransformReadsOnlyActiveKeys :
    (readyWaiting .k128 0x2).ctx.valid = true ∧ (readyWaiting .k128 0x2).ctx.consistent ∧
    (∀ i, i < 13 → keyAt (Vector.replicate 17 0) i = keyAt ((Vector.replicate 17 0).set 13 1) i) ∧
    (∃ t, exec .encrypt (readyWaiting .k128 0x2) = .next t) ∧ ∃ t, exec .decrypt (readyWaiting .k128 0x3) = .next t :=
  ⟨rfl, (buildContext_agrees .k128 testKey).1, by decide, ⟨_, rfl⟩, ⟨_, rfl⟩⟩

theorem witness_DecryptAndEncryptUndoEachOther :
    (readyWaiting .k192 0x2).pending = some (snap 0x2) ∧ (readyWaiting .k192 0x2).ctx.valid = true ∧
    (readyWaiting .k192 0x2).ctx.consistent ∧ (readyWaiting .k192 0x2).ctx.tablesAgree :=
  ⟨rfl, rfl, (buildContext_agrees .k192 testKey).1, (buildContext_agrees .k192 testKey).2⟩

theorem witness_CommandsKeepTheirFrame :
    (∃ t, exec (.init 128 4) (waiting 0x1) = .next t) ∧ (∃ t, exec .encrypt (readyWaiting .k128 0x2) = .next t) ∧
    (∃ t, exec .decrypt (readyWaiting .k128 0x3) = .next t) ∧ ∃ t, exec .decrypt (waiting 0x3) = .next t :=
  ⟨⟨_, rfl⟩, ⟨_, rfl⟩, ⟨_, rfl⟩, ⟨_, rfl⟩⟩

theorem witness_SubstitutionLayersFollowTheirPattern :
    (0 < 16 ∧ 0 % 4 = 0) ∧ (13 < 16 ∧ 13 % 4 = 1) ∧ (14 < 16 ∧ 14 % 4 = 2) ∧ (15 < 16 ∧ 15 % 4 = 3) := by decide

theorem witness_SubstitutionLayersAreMutualInverses : 0 < 16 ∧ 15 < 16 := by decide

theorem witness_RotationsRotate : 0 < 128 ∧ (0 < 1 ∧ 1 < 128) ∧ (0 < 127 ∧ 127 < 128) := by decide

/-- Offsets of each clause at both ends of its range. -/
theorem witness_HostReadsFollowTheRegisterMap :
    (State.reset.before [.access (readAccess 0 0x30)]).script = .access (readAccess 0 0x30) :: [] ∧
    (0x10 = 0x10 + 4 * (0 : Fin 8).val ∧ 0x2C = 0x10 + 4 * (7 : Fin 8).val) ∧
    (0x30 = 0x30 + 4 * (0 : Fin 4).val ∧ 0x3C = 0x30 + 4 * (3 : Fin 4).val) ∧
    (0x40 = 0x40 + 4 * (0 : Fin 4).val ∧ 0x4C = 0x40 + 4 * (3 : Fin 4).val) ∧
    (0x08 % 4 = 0 ∧ 0x0C % 4 = 0 ∧ 0x50 % 4 = 0 ∧ 0xFC % 4 = 0 ∧ 0xFC ≤ 0xFC) :=
  ⟨rfl, by decide, by decide, by decide, by decide⟩

/-- The same offsets for writes; a word with bit 8 set and one without; an idle and a busy engine. -/
theorem witness_HostWritesFollowTheRegisterMap :
    (State.reset.before [.access (writeAccess 0 0x4C 1)]).script = .access (writeAccess 0 0x4C 1) :: [] ∧
    State.reset.pending = none ∧ (waiting 0x2).pending ≠ none ∧
    ((waiting 0x2).before [.access (writeAccess 0 0x00 1)]).script = .access (writeAccess 0 0x00 1) :: [] ∧
    (0x00000100#32).getLsbD 8 = true ∧ (0xFFFFFEFF#32).getLsbD 8 = false ∧
    (0x2C = 0x10 + 4 * (7 : Fin 8).val ∧ 0x3C = 0x30 + 4 * (3 : Fin 4).val ∧ 0x4C = 0x40 + 4 * (3 : Fin 4).val) ∧
    (0x50 % 4 = 0 ∧ 0xFC % 4 = 0) :=
  ⟨rfl, rfl, by decide, rfl, by decide, by decide, by decide, by decide⟩

/-- A narrow read of DIN[0], a misaligned write at the end of the window, and reads at the ends of the unmapped ranges. -/
theorem witness_RejectedAccessGetsBusError :
    ∃ a b : Access, a.addr = Config.engineBase + 0x30 ∧ a.width ≠ 4 ∧ b.addr = Config.engineBase + 0xFF ∧ 0xFF % 4 ≠ 0 ∧
      (State.reset.before [.access a, .access b]).script = .access a :: [.access b] ∧
      (readAccess 0 0x0C).addr = Config.engineBase + 0x0C ∧ (readAccess 0 0x50).addr = Config.engineBase + 0x50 ∧
      (readAccess 0 0xFC).addr = Config.engineBase + 0xFC ∧ 0x50 ≤ 0xFC ∧ 0xFC ≤ 0xFF :=
  ⟨{ host := 0, addr := Config.engineBase + 0x30, width := 2, kind := .read },
    { host := 0, addr := Config.engineBase + 0xFF, width := 4, kind := .write 1 },
    rfl, by decide, rfl, by decide, rfl, rfl, rfl, rfl, by decide, by decide⟩

/-- The first address above the window, and the last one below it where the window is not at address 0. -/
theorem witness_AddressOutsideWindowIsNotDecoded :
    ∃ a b : Access, Config.engineBase + 0xFF < a.addr ∧ (State.reset.before [.access a]).script = .access a :: [] ∧
      (0 < Config.engineBase → b.addr < Config.engineBase) ∧
      (State.reset.before [.access b]).script = .access b :: [] :=
  ⟨{ host := 0, addr := Config.engineBase + 0x100, width := 4, kind := .read },
    { host := 0, addr := Config.engineBase - 1, width := 1, kind := .read },
    by simp, rfl, fun h => Nat.sub_lt h (by decide), rfl⟩

theorem witness_ReadsHaveNoSideEffect :
    (readAccess 0 0x04).kind = .read ∧
    (State.reset.before [.access (readAccess 0 0x04), .access (readAccess 0 0x04)]).script =
      .access (readAccess 0 0x04) :: .access (readAccess 0 0x04) :: [] := ⟨rfl, rfl⟩

/-- A busy engine, the next event a write of CMD, whose engine step has a next state. -/
theorem witness_BusyEngineDropsACommand :
    ((waiting 0x2).before [.access (writeAccess 0 0x00 0x3)]).script = .access (writeAccess 0 0x00 0x3) :: [] ∧
    ((waiting 0x2).before [.access (writeAccess 0 0x00 0x3)]).pending ≠ none ∧
    ∃ t, engineStep ((waiting 0x2).before [.access (writeAccess 0 0x00 0x3)]) = .next t :=
  ⟨rfl, by simp [State.before, waiting], engineStep_next _⟩

theorem witness_HostsAreIndistinguishable :
    (State.reset.before [.access (readAccess 0 0x04)]).script = .access (readAccess 0 0x04) :: [] := rfl

theorem witness_PendingCommandRunsOnItsSnapshot :
    (waiting 0x2).pending ≠ none ∧ ∃ t, engineStep (waiting 0x2) = .next t := ⟨by decide, engineStep_next _⟩

/-- Two engines that differ in KEY only, before a host's read of KEY[0]. -/
theorem witness_HostsCannotReadSecrets :
    ∃ s s' : State, s'.key ≠ s.key ∧
      s' = { s with key := s'.key, pending := s'.pending, ctx := { s.ctx with ek := s'.ctx.ek, dk := s'.ctx.dk } } ∧
      s'.pending.isSome = s.pending.isSome ∧ ¬ s.engineNext ∧ (∃ t, step s = .next t) ∧ ∃ t', step s' = .next t' :=
  ⟨State.reset.before [.access (readAccess 0 0x10)],
    { State.reset.before [.access (readAccess 0 0x10)] with key := testKey },
    show testKey ≠ State.reset.key by decide, rfl, rfl, by simp [State.engineNext, State.before], ⟨_, rfl⟩, ⟨_, rfl⟩⟩

theorem witness_StatusShowsTheState : State.reset.ctx.consistent ∧ (ready .k256).ctx.consistent :=
  ⟨by decide, (buildContext_agrees .k256 testKey).1⟩

theorem witness_CompletionReportsItsError :
    (waiting 0xF).pending = some (snap 0xF) ∧ (∃ t, engineStep (waiting 0xF) = .next t) ∧
    (∃ t, engineStep (waiting 0x00800301) = .next t) ∧ ∃ t, engineStep (readyWaiting .k128 0x2) = .next t :=
  ⟨rfl, engineStep_next _, engineStep_next _, engineStep_next _⟩

/-- A command of each error. -/
theorem witness_ErrorsArePrecise :
    (∃ t, (waiting 0x0).pending ≠ none ∧ engineStep (waiting 0x0) = .next t ∧ t.err ≠ .noError) ∧
    (∃ t, (waiting 0x1).pending ≠ none ∧ engineStep (waiting 0x1) = .next t ∧ t.err ≠ .noError) ∧
    ∃ t, (waiting 0x2).pending ≠ none ∧ engineStep (waiting 0x2) = .next t ∧ t.err ≠ .noError :=
  ⟨⟨_, by decide, rfl, by decide⟩, ⟨_, by decide, rfl, by decide⟩, ⟨_, by decide, rfl, by decide⟩⟩

/-- BUSY rising, BUSY falling with DONE rising, DONE falling, and a reset with a command pending. -/
theorem witness_BusyAndDoneFollowTheCommand :
    (∃ t, step ({ State.reset with done := true }.before [.access (writeAccess 0 0x00 0x2)]) = .next t ∧
      busy t = true ∧ t.done = false) ∧
    (∃ t, step (waiting 0x2) = .next t ∧ busy (waiting 0x2) = true ∧ busy t = false ∧ t.done = true) ∧
    ∃ t, step ((waiting 0x2).before [.reset]) = .next t ∧ busy t = false := by
  refine ⟨⟨_, rfl, ?_, ?_⟩, ⟨_, rfl, by decide, by decide, by decide⟩, ⟨_, rfl, by decide⟩⟩
  · exact congrArg busy (accessEffect_writeAccess 0 .cmd 0x2 { State.reset with done := true })
  · exact congrArg State.done (accessEffect_writeAccess 0 .cmd 0x2 { State.reset with done := true })

/-- OVR set by a dropped command, and cleared by a write of STATUS and by a reset. -/
theorem witness_OverrunFlagIsSticky :
    (∃ t, step ((waiting 0x2).before [.access (writeAccess 0 0x00 0x3)]) = .next t ∧ t.ovr = true) ∧
    (∃ t, step ((dropCommand State.reset).before [.access (writeAccess 0 0x04 0x100)]) = .next t ∧ t.ovr = false) ∧
    ∃ t, step ((dropCommand State.reset).before [.reset]) = .next t ∧ t.ovr = false := by
  refine ⟨⟨_, rfl, ?_⟩, ⟨_, rfl, ?_⟩, ⟨_, rfl, rfl⟩⟩
  · exact congrArg State.ovr (accessEffect_writeAccess 0 .cmd 0x3 (waiting 0x2))
  · exact congrArg State.ovr (accessEffect_writeAccess 0 .status 0x100 (dropCommand State.reset))

/-- The invariant of an idle engine with a context, and a step from it. -/
theorem witness_EveryStepKeepsTheInvariant : (ready .k128).Inv ∧ ∃ t, step (ready .k128) = .next t := by
  refine ⟨⟨(buildContext_agrees .k128 testKey).1, (buildContext_agrees .k128 testKey).2, ?_, ?_, ?_⟩, ⟨_, rfl⟩⟩
  · simp [State.pendingClean, ready, State.reset]
  · simp [State.noContextClean, ready, State.reset]
  · simp [State.freshClean, ready]

theorem witness_ContextFieldsAlwaysAgree :
    (readyWaiting .k192 0x1).ctx.consistent ∧ ∃ t, step (readyWaiting .k192 0x1) = .next t :=
  ⟨(buildContext_agrees .k192 testKey).1, ⟨_, rfl⟩⟩

/-- A context appears at an INIT's completion, and goes at a reset. -/
theorem witness_ContextChangesOnlyByInitOrReset :
    (∃ t, step (waiting 0x00800401) = .next t ∧ t.ctx ≠ (waiting 0x00800401).ctx) ∧
    ∃ t, step ((ready .k128).before [.reset]) = .next t ∧ t.ctx ≠ ((ready .k128).before [.reset]).ctx := by
  refine ⟨⟨_, rfl, fun h => ?_⟩, ⟨_, rfl, fun h => ?_⟩⟩
  · exact absurd (congrArg Context.valid h) (by decide +kernel)
  · exact absurd (congrArg Context.valid h) (by decide +kernel)

theorem witness_ResultChangesOnlyByTransformOrReset :
    (∃ t, step (readyWaiting .k128 0x2) = .next t ∧ t.dout ≠ (readyWaiting .k128 0x2).dout) ∧
    ∃ t, step ({ State.reset with dout := testBlock }.before [.reset]) = .next t ∧ t.dout ≠ testBlock := by
  refine ⟨⟨_, rfl, by decide +kernel⟩, ⟨_, rfl, by decide⟩⟩

theorem witness_KeyAndInputChangeOnlyByHosts :
    (∃ t, step (State.reset.before [.access (writeAccess 0 0x2C 1)]) = .next t ∧ t.key ≠ State.reset.key) ∧
    ∃ t, step (State.reset.before [.access (writeAccess 0 0x30 1)]) = .next t ∧ t.din ≠ State.reset.din := by
  refine ⟨⟨_, rfl, fun h => ?_⟩, ⟨_, rfl, fun h => ?_⟩⟩
  · exact absurd ((congrArg State.key (accessEffect_writeAccess 0 (.key 7) 1 State.reset)).symm.trans h) (by decide)
  · exact absurd ((congrArg State.din (accessEffect_writeAccess 0 (.din 0) 1 State.reset)).symm.trans h) (by decide)

theorem witness_ResetEventSetsEveryComponent :
    ((readyWaiting .k128 0x2).before [.reset, .engineStep]).script = .reset :: [.engineStep] := rfl

/-- A busy and an idle engine before a WAIT. -/
theorem witness_WaitDoesNotTellItsPolls :
    ((waiting 0x2).before [.wait 0, .reset]).script = .wait 0 :: [.reset] ∧
    ((ready .k128).before [.wait 0]).script = .wait 0 :: [] := ⟨rfl, rfl⟩

/-- A state before an access, and two states whose hosts wrote KEY[0] with different data. -/
theorem witness_ObservationTakesReadsAndBusErrors :
    (State.reset.before [.access (readAccess 0 0xFC)]).script = .access (readAccess 0 0xFC) :: [] ∧
    ∃ s s' : State, s'.replies ≠ s.replies ∧ statusWord s' = statusWord s ∧ s'.dout = s.dout ∧ s'.din = s.din ∧
      s'.replies.map (·.answer) = s.replies.map (·.answer) :=
  ⟨rfl, { State.reset with replies := [⟨writeAccess 0 0x10 1, .written⟩] },
    { State.reset with replies := [⟨writeAccess 0 0x10 2, .written⟩] }, by simp [writeAccess], rfl, rfl, rfl, rfl⟩

theorem witness_ObservationDoesNotTellKeys :
    (State.reset.before [.access (writeAccess 0 0x10 1)]).script = .access (writeAccess 0 (0x10 + 4 * (0 : Fin 8).val) 1) :: [] ∧
    (State.reset.before [.access (writeAccess 0 0x2C 2)]).script = .access (writeAccess 0 (0x10 + 4 * (7 : Fin 8).val) 2) :: [] :=
  ⟨rfl, rfl⟩

/-- A command pending before an access, a WAIT and an engine step, and before the end of the script. -/
theorem witness_PendingCommandRunsUnlessReset :
    ((waiting 0x2).before [.access (readAccess 0 0x04), .wait 0, .engineStep]).pending = some (snap 0x2) ∧
    Event.reset ∉ ((waiting 0x2).before [.access (readAccess 0 0x04), .wait 0, .engineStep]).script ∧
    (waiting 0x0).pending = some (snap 0x0) ∧ Event.reset ∉ (waiting 0x0).script :=
  ⟨rfl, by simp [State.before], rfl, by simp [waiting, State.reset]⟩

/-- An ended run with both kinds of event still to come, and one with none. -/
theorem witness_RunEndsWithTheLastHostOperation :
    (∀ e ∈ (State.reset.before [.engineStep, .reset]).script, e = .engineStep ∨ e = .reset) ∧
    (State.reset.before [.engineStep, .reset]).pending = none ∧
    (State.reset.before [.engineStep, .reset]).runEnded ∧ ¬ (State.reset.before [.engineStep, .reset]).resetNext ∧
    State.reset.runEnded ∧ ¬ State.reset.resetNext := by
  refine ⟨by decide, by decide, by decide, ?_, by decide, ?_⟩
  · rintro ⟨rest, h⟩; cases h
  · rintro ⟨rest, h⟩; cases h

theorem witness_WaitLoopEnds : ((waiting 0x2).before [.wait 0]).script = .wait 0 :: [] := rfl

end Sys2Proof.Machine
end

namespace Sys2Proof.Machine

/-! ### The fields of STATUS (10_state.md rules R26 to R33) -/

/-- The layout of rule R26: which field bit `i` of STATUS lies in, and where in that field. -/
theorem statusWord_getLsbD (s : State) (i : Nat) : (statusWord s).getLsbD i =
    if i < 1 then (BitVec.ofBool (busy s)).getLsbD i
    else if i < 2 then (BitVec.ofBool s.done).getLsbD (i - 1)
    else if i < 3 then (BitVec.ofBool s.ctx.valid).getLsbD (i - 2)
    else if i < 4 then false
    else if i < 8 then (errCode s.err).getLsbD (i - 4)
    else if i < 9 then (BitVec.ofBool s.ovr).getLsbD (i - 8)
    else if i < 11 then (keySizeCode s.ctx).getLsbD (i - 9)
    else if i < 16 then false
    else if i < 21 then (roundsCode s.ctx).getLsbD (i - 16)
    else false := by
  have inField (b : Nat) {w : Nat} (hw : 0 < w) : i - b < w ↔ i < b + w := by omega
  rw [statusWord]
  simp only [BitVec.getLsbD_append]
  simp (disch := decide) only [Nat.sub_sub, inField, BitVec.getLsbD_zero, Nat.reduceAdd]

/-- A field that starts at bit `b` is known by its bits. -/
theorem extractLsb'_eq_of_getLsbD {m n b : Nat} {x : BitVec m} {f : BitVec n}
    (h : ∀ i < n, x.getLsbD (b + i) = f.getLsbD i) : x.extractLsb' b n = f :=
  BitVec.eq_of_getLsbD_eq fun i hi => by simp only [BitVec.getLsbD_extractLsb', hi, h i hi, decide_true, Bool.true_and]

section StatusFields
variable (s : State)

theorem statusWord_busy : (statusWord s).getLsbD 0 = busy s := by
  rw [statusWord_getLsbD]; simp

theorem statusWord_done : (statusWord s).getLsbD 1 = s.done := by
  rw [statusWord_getLsbD]; simp

theorem statusWord_ctxValid : (statusWord s).getLsbD 2 = s.ctx.valid := by
  rw [statusWord_getLsbD]; simp

theorem statusWord_ovr : (statusWord s).getLsbD 8 = s.ovr := by
  rw [statusWord_getLsbD]; simp

theorem statusWord_err : (statusWord s).extractLsb' 4 4 = errCode s.err :=
  extractLsb'_eq_of_getLsbD fun i hi => by
    simp (disch := omega) only [statusWord_getLsbD, if_neg, if_pos, Nat.add_sub_cancel_left]

theorem statusWord_keySize : (statusWord s).extractLsb' 9 2 = keySizeCode s.ctx :=
  extractLsb'_eq_of_getLsbD fun i hi => by
    simp (disch := omega) only [statusWord_getLsbD, if_neg, if_pos, Nat.add_sub_cancel_left]

theorem statusWord_rounds : (statusWord s).extractLsb' 16 5 = roundsCode s.ctx :=
  extractLsb'_eq_of_getLsbD fun i hi => by
    simp (disch := omega) only [statusWord_getLsbD, if_neg, if_pos, Nat.add_sub_cancel_left]

theorem statusWord_reserved :
    (statusWord s).getLsbD 3 = false ∧ (statusWord s).extractLsb' 11 5 = 0 ∧
      (statusWord s).extractLsb' 21 11 = 0 := by
  refine ⟨?_, extractLsb'_eq_of_getLsbD fun i hi => ?_, extractLsb'_eq_of_getLsbD fun i hi => ?_⟩
  · rw [statusWord_getLsbD]; simp
  · simp (disch := omega) only [statusWord_getLsbD, if_neg, if_pos, BitVec.ofNat_eq_ofNat, BitVec.getLsbD_zero]
  · simp (disch := omega) only [statusWord_getLsbD, if_neg, BitVec.ofNat_eq_ofNat, BitVec.getLsbD_zero]

end StatusFields

/-- Where CTX's fields agree, its key size alone decides KEYSIZE (rules R32, R36). -/
theorem keySizeCode_of_consistent {c : Context} (h : c.consistent) :
    keySizeCode c = match c.keybits with
      | none => 0 | some .k128 => 1 | some .k192 => 2 | some .k256 => 3 := by
  obtain ⟨noContext, context⟩ := h
  cases hv : c.valid with
  | false => simp [keySizeCode, hv, (noContext hv).1]
  | true => rcases context hv with ⟨hk, -⟩ | ⟨hk, -⟩ | ⟨hk, -⟩ <;> simp [keySizeCode, hv, hk]

/-- Settles O42: the register's layout gives each field, and the premise is needed for KEYSIZE alone. -/
theorem statusShowsTheState : Obligations.StatusShowsTheState := by
  intro s hc
  refine ⟨statusWord_busy s, statusWord_done s, statusWord_ctxValid s, ?_, statusWord_ovr s, ?_, ?_,
    statusWord_reserved s⟩
  · rw [statusWord_err]
    cases s.err <;> rfl
  · rw [statusWord_keySize]
    exact keySizeCode_of_consistent hc
  · rw [statusWord_rounds, roundsCode]
    cases s.ctx.rounds <;> rfl

/-! ### The overrun flag (10_state.md rule R31) -/

@[simp] theorem busy_setScript (es : List Event) (s : State) : busy (setScript es s) = busy s := rfl

/-- The step that takes a host's write of a register: what `writeReg` says, and the answer to the host. -/
theorem step_of_writeNext {s : State} {r : Reg} {v : Word} (h : s.writeNext (regOffset r) v) :
    ∃ rest reply, step s = .next (recordReply reply (writeReg r v (setScript rest s))) := by
  obtain ⟨host, rest, hs⟩ := h
  exact ⟨rest, ⟨writeAccess host (regOffset r) v, .written⟩, by simp [step, hs, runEvent, performAccess]⟩

/-- While busy, a write of CMD is dropped (rule R57). -/
theorem issueCommand_of_busy (v : Word) {s : State} (h : busy s = true) : issueCommand v s = dropCommand s :=
  if_pos h

@[simp] theorem issueCommand_ovr (v : Word) (s : State) : (issueCommand v s).ovr = (s.ovr || busy s) := by
  cases h : busy s <;> simp [issueCommand, h]

/-- The only register writes that reach OVR are those of CMD and STATUS (rule R57). -/
theorem writeReg_ovr_of_ne {r : Reg} (hcmd : r ≠ .cmd) (hstatus : r ≠ .status) (v : Word) (s : State) :
    (writeReg r v s).ovr = s.ovr := by
  cases r with
  | cmd => exact absurd rfl hcmd
  | status => exact absurd rfl hstatus
  | key i => rfl
  | din i => rfl
  | dout i => rfl

theorem engineStep_ovr {s t : State} (h : engineStep s = .next t) : t.ovr = s.ovr := by
  rcases engineStep_cases s with ⟨-, he⟩ | ⟨p, -, ⟨e, -, -, he⟩ | ⟨kb, kw, size, -, -, he⟩ | ⟨y, -, -, he⟩⟩ <;>
    (cases h.symm.trans he; rfl)

section StepOvr
variable {s t : State} {v : Word}

/-- A step that takes a write of CMD sets OVR where the engine is busy, and then keeps PENDING (rules R31, R57). -/
theorem step_ovr_of_commandWrite (hw : s.writeNext 0x00 v) (h : step s = .next t) :
    t.ovr = (s.ovr || busy s) ∧ (busy s = true → t.pending = s.pending) := by
  obtain ⟨rest, reply, hs⟩ := step_of_writeNext (r := .cmd) hw
  cases h.symm.trans hs
  exact ⟨issueCommand_ovr v (setScript rest s),
    fun hb => by simp [writeReg, issueCommand_of_busy, hb]⟩

/-- A step that takes a write of STATUS clears OVR where bit 8 is 1 (rules R31, R57). -/
theorem step_ovr_of_statusWrite (hw : s.writeNext 0x04 v) (h : step s = .next t) :
    t.ovr = (s.ovr && !v.getLsbD 8) := by
  obtain ⟨rest, reply, hs⟩ := step_of_writeNext (r := .status) hw
  cases h.symm.trans hs
  exact writeStatus_ovr v (setScript rest s)

theorem step_ovr_of_resetNext (hr : s.resetNext) (h : step s = .next t) : t.ovr = false := by
  obtain ⟨rest, hs⟩ := hr
  have hstep : step s = .next (resetEngine (setScript rest s)) := by simp [step, hs, runEvent]
  cases h.symm.trans hstep
  rfl

/-- Nothing but a write of CMD or STATUS and a reset can change OVR (rule R31). -/
theorem step_ovr_cases (h : step s = .next t) :
    t.ovr = s.ovr ∨ (∃ v, s.writeNext 0x00 v) ∨ (∃ v, s.writeNext 0x04 v) ∨ s.resetNext := by
  rcases step_cases s with ⟨-, hs⟩ | ⟨rest, -, hs⟩ | ⟨a, rest, ha, hs⟩ | ⟨host, rest, -, hs⟩ | ⟨rest, hr, -⟩
  · exact .inl (engineStep_ovr (hs.symm.trans h))
  · exact .inl (engineStep_ovr (s := setScript rest s) (hs.symm.trans h))
  · cases h.symm.trans hs
    rcases accessEffect_cases a (setScript rest s) with he | ⟨r, v, hw, he⟩
    · exact .inl (by simp [performAccess, he])
    · have hwrite : s.writeNext (regOffset r) v := ⟨a.host, rest, hw ▸ ha⟩
      by_cases hcmd : r = .cmd
      · subst hcmd
        exact .inr (.inl ⟨v, hwrite⟩)
      by_cases hstatus : r = .status
      · subst hstatus
        exact .inr (.inr (.inl ⟨v, hwrite⟩))
      exact .inl (by simp [performAccess, he, writeReg_ovr_of_ne hcmd hstatus])
  · cases h.symm.trans hs
    exact .inl (by simp [pollStatus_eq])
  · exact .inr (.inr (.inr ⟨rest, hr⟩))

end StepOvr

/-- Settles O46: only three kinds of step can change OVR, and each says what it leaves there. -/
theorem overrunFlagIsSticky : Obligations.OverrunFlagIsSticky := by
  intro s t h
  refine ⟨fun hovr => ⟨fun ht => ?_, ?_⟩, fun hovr => ⟨fun ht => ?_, ?_⟩, ?_⟩
  · rcases step_ovr_cases h with hsame | ⟨v, hw⟩ | ⟨v, hw⟩ | hr
    · simp [hsame, hovr] at ht
    · have hset := (step_ovr_of_commandWrite hw h).1
      exact ⟨by simpa [hovr, ht] using hset.symm, v, hw⟩
    · simp [step_ovr_of_statusWrite hw h, hovr] at ht
    · simp [step_ovr_of_resetNext hr h] at ht
  · rintro ⟨hbusy, v, hw⟩
    simp [(step_ovr_of_commandWrite hw h).1, hbusy]
  · rcases step_ovr_cases h with hsame | ⟨v, hw⟩ | ⟨v, hw⟩ | hr
    · simp [hsame, hovr] at ht
    · simp [(step_ovr_of_commandWrite hw h).1, hovr] at ht
    · have hcleared := step_ovr_of_statusWrite hw h
      exact .inl ⟨v, by simpa [hovr, ht] using hcleared, hw⟩
    · exact .inr hr
  · rintro (⟨v, hbit, hw⟩ | hr)
    · simp [step_ovr_of_statusWrite hw h, hbit]
    · exact step_ovr_of_resetNext hr h
  · rintro hbusy ⟨v, hw⟩
    obtain ⟨hset, hkept⟩ := step_ovr_of_commandWrite hw h
    exact ⟨by simp [hset, hbusy], hkept hbusy⟩

end Sys2Proof.Machine

namespace Sys2Proof.Machine

/-! ### A host access as one step (20_memory.md rules R53 to R58) -/

/-- The offsets of the register map are aligned, and avoid the unmapped ones (rules R52, R54, R55). -/
theorem regOffset_aligned_mapped (r : Reg) :
    regOffset r % 4 = 0 ∧ regOffset r ≠ 0x08 ∧ regOffset r ≠ 0x0C ∧ regOffset r < 0x50 := by
  cases r with
  | cmd => decide
  | status => decide
  | key i => simp only [regOffset]; omega
  | din i => simp only [regOffset]; omega
  | dout i => simp only [regOffset]; omega

/-- The three reasons for which an access reaches no register (rules R53 to R55). -/
theorem selectReg_eq_none_of_rejected {width off : Nat}
    (h : width ≠ 4 ∨ off % 4 ≠ 0 ∨ off = 0x08 ∨ off = 0x0C ∨ 0x50 ≤ off) : selectReg width off = none := by
  rw [selectReg_eq_none_iff]
  rintro r ⟨hwidth, rfl⟩
  have hmapped := regOffset_aligned_mapped r
  omega

/-- What a read returns is no matter of the events to come. -/
@[simp] theorem readReg_setScript (r : Reg) (es : List Event) (s : State) :
    readReg r (setScript es s) = readReg r s := by
  cases r <;> rfl

/-- An update of the script and the replies is no matter of a register write: it can be made before or after it. -/
theorem recordReply_writeReg_setScript (reply : Reply) (r : Reg) (v : Word) (es : List Event) (s : State) :
    recordReply reply (writeReg r v (setScript es s)) = writeReg r v (recordReply reply (setScript es s)) := by
  cases r with
  | cmd => exact apply_ite (recordReply reply) ..
  | status => exact apply_ite (recordReply reply) ..
  | key i => rfl
  | din i => rfl
  | dout i => rfl

theorem issueCommand_of_idle (v : Word) {s : State} (h : s.pending = none) : issueCommand v s = acceptCommand v s :=
  if_neg (by simp [busy, h])

theorem writeStatus_of_bit8 {v : Word} (h : v.getLsbD 8 = true) (s : State) :
    writeStatus v s = { s with ovr := false } :=
  if_pos h

theorem writeStatus_of_not_bit8 {v : Word} (h : v.getLsbD 8 = false) (s : State) : writeStatus v s = s :=
  if_neg (ne_true_of_eq_false h)

section StepAccess
variable {s : State} {host : Nat} {rest : List Event}

theorem step_of_access {a : Access} (hs : s.script = .access a :: rest) :
    step s = .next (performAccess a (setScript rest s)) := by
  simp only [step, hs, runEvent]

/-- The step that takes an access of the window which reaches no register: BusError, and nothing else (rule R204). -/
theorem step_of_selectReg_eq_none {a : Access} {off : Nat} (hs : s.script = .access a :: rest)
    (ha : a.addr = Config.engineBase + off) (hoff : off ≤ 0xFF) (hr : selectReg a.width off = none) :
    step s = .next (s.answered rest a .busError) := by
  rw [step_of_access hs, performAccess, accessEffect_window a _ off ha hoff, accessAnswer_window a _ off ha hoff]
  simp only [effectAt, answerAt, hr]
  rfl

/-- The step that takes a host's read of a register: it answers the register's value, and nothing else. -/
theorem step_of_readAccess (r : Reg) (hs : s.script = .access (readAccess host (regOffset r)) :: rest) :
    step s = .next (s.answered rest (readAccess host (regOffset r)) (.data (readReg r s))) := by
  rw [step_of_access hs, performAccess, accessEffect_read _ _ rfl, accessAnswer_readAccess, readReg_setScript]
  rfl

/-- The step that takes a host's write of a register: `writeReg`, on the state that has answered the host. -/
theorem step_of_writeAccess (r : Reg) {v : Word}
    (hs : s.script = .access (writeAccess host (regOffset r) v) :: rest) :
    step s = .next (writeReg r v (s.answered rest (writeAccess host (regOffset r) v) .written)) := by
  rw [step_of_access hs, performAccess, accessEffect_writeAccess, accessAnswer_writeAccess,
    recordReply_writeReg_setScript]
  rfl

end StepAccess

/-- Settles O34: no register lies where the width, the alignment or the map rejects the access. -/
theorem rejectedAccessGetsBusError : Obligations.RejectedAccessGetsBusError := by
  intro s a off rest hs ha hoff hrejected
  exact step_of_selectReg_eq_none hs ha hoff (selectReg_eq_none_of_rejected hrejected)

/-- Settles O33: register by register, and BusError for the offsets that O34 rejects. -/
theorem hostReadsFollowTheRegisterMap : Obligations.HostReadsFollowTheRegisterMap := by
  intro s host off rest hs
  refine ⟨?cmd, ?status, fun i => ?key, fun i => ?din, fun i => ?dout, ?unmapped⟩
  case cmd => rintro rfl; exact step_of_readAccess .cmd hs
  case status => rintro rfl; exact step_of_readAccess .status hs
  case key => rintro rfl; exact step_of_readAccess (.key i) hs
  case din => rintro rfl; exact step_of_readAccess (.din i) hs
  case dout => rintro rfl; exact step_of_readAccess (.dout i) hs
  case unmapped =>
    intro _ hoff
    exact rejectedAccessGetsBusError s _ off rest hs rfl (by omega) (by omega)

/-- Settles O38: register by register, CMD by what is pending and STATUS by the datum's bit 8, and BusError for the
offsets that O34 rejects. -/
theorem hostWritesFollowTheRegisterMap : Obligations.HostWritesFollowTheRegisterMap := by
  rintro s _ host off v rest hs rfl
  refine ⟨?accepted, ?dropped, ?cleared, ?kept, fun i => ?key, fun i => ?din, fun i => ?dout, ?unmapped⟩
  case accepted =>
    rintro rfl hidle
    exact (step_of_writeAccess .cmd hs).trans (congrArg _ (issueCommand_of_idle v hidle))
  case dropped =>
    rintro rfl hpending
    have hbusy : busy s = true := Option.isSome_iff_ne_none.2 hpending
    exact (step_of_writeAccess .cmd hs).trans (congrArg _ (issueCommand_of_busy v hbusy))
  case cleared =>
    rintro rfl hbit
    exact (step_of_writeAccess .status hs).trans (congrArg _ (writeStatus_of_bit8 hbit _))
  case kept =>
    rintro rfl hbit
    exact (step_of_writeAccess .status hs).trans (congrArg _ (writeStatus_of_not_bit8 hbit _))
  case key => rintro rfl; exact step_of_writeAccess (.key i) hs
  case din => rintro rfl; exact step_of_writeAccess (.din i) hs
  case dout => rintro rfl; exact step_of_writeAccess (.dout i) hs
  case unmapped =>
    intro _ hoff
    exact rejectedAccessGetsBusError s _ off rest hs rfl (by omega) (by omega)

end Sys2Proof.Machine

namespace Sys2Proof

/-! ### The decoder by OPC as a number (30_encoding.md rules R83 to R89) -/

section DecodeByOpc
variable {w : Word}

theorem decode_of_opc_init (h : w.toNat % 16 = 1) :
    decode w = .ok (.init (w.toNat / 65536) (w.toNat / 256 % 16)) := by
  rw [← keybitsField_toNat, ← keywordsField_toNat]
  exact (decode_ok_iff w _).2 (.inl ⟨(opcField_eq_iff w 1 (by decide)).2 h, rfl⟩)

theorem decode_of_opc_encrypt (h : w.toNat % 16 = 2) : decode w = .ok .encrypt :=
  (decode_ok_iff w _).2 (.inr (.inl ⟨(opcField_eq_iff w 2 (by decide)).2 h, rfl⟩))

theorem decode_of_opc_decrypt (h : w.toNat % 16 = 3) : decode w = .ok .decrypt :=
  (decode_ok_iff w _).2 (.inr (.inr ⟨(opcField_eq_iff w 3 (by decide)).2 h, rfl⟩))

/-- Every other OPC is rejected, and the rejection names it (rule R87). -/
theorem decode_of_opc_illegal (h : w.toNat % 16 = 0 ∨ 4 ≤ w.toNat % 16) :
    decode w = .error (.illegalOpcode (BitVec.ofNat 4 (w.toNat % 16))) := by
  have hopc : opcField w = BitVec.ofNat 4 (w.toNat % 16) :=
    (opcField_eq_iff w _ (Nat.mod_lt _ (by decide))).2 rfl
  have opcNe (n : Nat) (hn : 1 ≤ n ∧ n ≤ 3) : opcField w ≠ BitVec.ofNat 4 n := by
    rw [ne_eq, opcField_eq_iff w n (by omega)]
    omega
  exact (if_neg (opcNe 1 (by decide))).trans <| (if_neg (opcNe 2 (by decide))).trans <|
    (if_neg (opcNe 3 (by decide))).trans (congrArg _ (congrArg _ hopc))

/-- The values of OPC, as rule R83's table groups them: one for each command, and the illegal rest. -/
theorem opc_cases (w : Word) :
    w.toNat % 16 = 1 ∨ w.toNat % 16 = 2 ∨ w.toNat % 16 = 3 ∨ (w.toNat % 16 = 0 ∨ 4 ≤ w.toNat % 16) := by
  omega

/-- The decoder reads OPC and, where that is INIT's, KEYBITS and KEYWORDS, and no other bit (rule R86). -/
theorem decode_congr {w' : Word} (hopc : w.toNat % 16 = w'.toNat % 16)
    (hfields : w.toNat % 16 = 1 →
      w.toNat / 65536 = w'.toNat / 65536 ∧ w.toNat / 256 % 16 = w'.toNat / 256 % 16) :
    decode w = decode w' := by
  rcases opc_cases w with h | h | h | h
  · obtain ⟨hkeybits, hkeywords⟩ := hfields h
    rw [decode_of_opc_init h, decode_of_opc_init (hopc ▸ h), hkeybits, hkeywords]
  · rw [decode_of_opc_encrypt h, decode_of_opc_encrypt (hopc ▸ h)]
  · rw [decode_of_opc_decrypt h, decode_of_opc_decrypt (hopc ▸ h)]
  · rw [decode_of_opc_illegal h, decode_of_opc_illegal (hopc ▸ h), hopc]

end DecodeByOpc

/-- Settles O5: one lemma for each command's OPC, and one for all illegal ones. -/
theorem decoderFollowsOpcodeTable : Obligations.DecoderFollowsOpcodeTable := fun _ =>
  ⟨decode_of_opc_init, decode_of_opc_encrypt, decode_of_opc_decrypt, decode_of_opc_illegal⟩

/-! ### The words of the syntax tables (30_encoding.md rules R93, R94) -/

/-- The word of INIT, its operands in their fields and its reserved bits 0. -/
theorem encode_init_toNat {kb kw : Nat} (hkb : kb ≤ 65535) (hkw : kw ≤ 15) :
    (encode (.init kb kw)).toNat = ((kb <<< 16) ||| (kw <<< 8)) ||| 0x1 := by
  have hkeybits : kb < 65536 := by omega
  have hkeywords : kw < 16 := by omega
  simp only [encode, BitVec.toNat_append]
  simp [opcode, Nat.mod_eq_of_lt, hkeybits, hkeywords, Nat.shiftLeft_or_distrib, ← Nat.shiftLeft_add]

/-- Settles O2: the word of INIT for all its operands; the other rows of the tables name one word each. -/
theorem assemblesTheSyntaxTable : Obligations.AssemblesTheSyntaxTable :=
  ⟨fun _ _ => encode_init_toNat, by decide, by decide, fun _ _ => rfl, fun _ _ => rfl,
    rfl, by decide, rfl, by decide, rfl, by decide⟩

namespace Machine

/-! ### The pending word, once decoded (30_encoding.md rules R86, R92) -/

/-- A command's meaning does not look at the command word again: its operands are the instruction's. -/
theorem exec_pending_cmd (i : Instr) (s : State) (p : Snapshot) (w w' : Word) :
    exec i { s with pending := some { p with cmd := w } } =
      exec i { s with pending := some { p with cmd := w' } } := by
  cases i with
  | init kb kw => rfl
  | encrypt => rfl
  | decrypt => rfl

/-- The engine step knows the pending word by what it decodes to. -/
theorem engineStep_pending_cmd_congr {w w' : Word} (h : decode w = decode w') (s : State) (p : Snapshot) :
    engineStep { s with pending := some { p with cmd := w } } =
      engineStep { s with pending := some { p with cmd := w' } } := by
  simp only [engineStep, h]
  cases decode w' with
  | ok i => exact exec_pending_cmd i s p w w'
  | error e => rfl

/-- Settles O6: the two words decode to the same, and a step that is the engine step asks for no more. -/
theorem reservedBitsAreIgnored : Obligations.ReservedBitsAreIgnored := by
  intro w w' hopc hfields
  have hdecode := decode_congr hopc hfields
  refine ⟨hdecode, fun s p hnext => ?_⟩
  rcases hnext with hs | ⟨rest, hs⟩
  · simp only [step, hs]
    exact engineStep_pending_cmd_congr hdecode (setScript [] s) p
  · simp only [step, hs, runEvent]
    exact engineStep_pending_cmd_congr hdecode (setScript rest s) p

end Machine

end Sys2Proof

namespace Sys2Proof.Machine

/-! ### The equations of the diffusion layer (41_diffusion.md rules R120, R121) -/

/-- `xorBytes` groups a row's XOR to the right; from the left, on top of a first byte, it gives the same. -/
theorem foldl_xor_byteAt (x : Block) (js : List Nat) (a : Byte) :
    js.foldl (fun acc k => acc ^^^ byteAt x k) a = a ^^^ xorBytes x js := by
  induction js generalizing a with
  | nil => exact BitVec.xor_zero.symm
  | cons j js ih => rw [List.foldl_cons, ih, BitVec.xor_assoc, xorBytes]

/-- Output byte i, as its equation is printed: the input bytes of its row, XORed from left to right. -/
theorem byteAt_diffuse_of_row (x : Block) (i : Fin 16) {j : Nat} {js : List Nat}
    (hrow : diffusionRows.getD i.val [] = j :: js) :
    byteAt (diffuse x) i.val = js.foldl (fun acc k => acc ^^^ byteAt x k) (byteAt x j) := by
  rw [byteAt_diffuse x i.val i.isLt, hrow, foldl_xor_byteAt, xorBytes]

/-- Settles O25: the bytes of both values are `byteAt` (rule R10, whose byte order the spec marks as derived, log entry
18), and each equation is that of one row of `diffusionRows`. -/
theorem diffusionFollowsItsEquations : Obligations.DiffusionFollowsItsEquations := by
  intro v
  have equation := @byteAt_diffuse_of_row v
  refine ⟨fun i => byteAt v i, fun i => byteAt (diffuse v) i, fun _ => rfl, fun _ => rfl, ?_⟩
  exact ⟨equation 0 rfl, equation 1 rfl, equation 2 rfl, equation 3 rfl, equation 4 rfl, equation 5 rfl,
    equation 6 rfl, equation 7 rfl, equation 8 rfl, equation 9 rfl, equation 10 rfl, equation 11 rfl,
    equation 12 rfl, equation 13 rfl, equation 14 rfl, equation 15 rfl⟩

end Sys2Proof.Machine

namespace Sys2Proof.Machine

/-! ### The lane pattern of the substitution layers (42_substitution.md rules R130, R131) -/

/-- SL1's table depends only on the lane index modulo 4. -/
theorem sl1Table_mod_four (i : Nat) : sl1Table (i % 4) = sl1Table i := by
  simp only [sl1Table, Nat.mod_mod]

/-- SL2's table depends only on the lane index modulo 4. -/
theorem sl2Table_mod_four (i : Nat) : sl2Table (i % 4) = sl2Table i := by
  simp only [sl2Table, Nat.mod_mod]

/-- In both layers, a lane congruent to r modulo 4 goes through the table of lane r. -/
theorem byteAt_sl1_sl2_of_mod_four (x : Block) {i r : Nat} (hi : i < 16) (hr : i % 4 = r) :
    byteAt (sl1 x) i = lookup (sl1Table r) (byteAt x i) ∧ byteAt (sl2 x) i = lookup (sl2Table r) (byteAt x i) := by
  subst hr
  rw [sl1Table_mod_four, sl2Table_mod_four]
  exact ⟨byteAt_substitute sl1Table x i hi, byteAt_substitute sl2Table x i hi⟩

/-- Settles O29: a lane goes through the table of its residue, and lanes 0 to 3 have the tables of the patterns
SB1, SB2, SB3, SB4 and SB3, SB4, SB1, SB2 by definition. -/
theorem substitutionLayersFollowTheirPattern : Obligations.SubstitutionLayersFollowTheirPattern := by
  intro x i hi
  have lane {r : Nat} (hr : i % 4 = r) := byteAt_sl1_sl2_of_mod_four x hi hr
  exact ⟨lane (r := 0), lane (r := 1), lane (r := 2), lane (r := 3)⟩

end Sys2Proof.Machine

namespace Sys2Proof.Machine

/-! ### INIT's two ways to complete (44_key_schedule.md rules R150, R151, R160, R161) -/

/-- INIT rejects a key length exactly when it is unsupported or too few key words are supplied (rule R151). -/
theorem acceptedKeySize_eq_none_iff (keybits keywords : Nat) :
    acceptedKeySize keybits keywords = none ↔
      keybits ≠ 128 ∧ keybits ≠ 192 ∧ keybits ≠ 256 ∨ keywords < keybits / 32 := by
  simp only [Option.eq_none_iff_forall_ne_some, ne_eq, acceptedKeySize_eq_some_iff]
  constructor
  · intro h
    have h128 := h .k128
    have h192 := h .k192
    have h256 := h .k256
    simp only [keyWords, keyBits] at h128 h192 h256
    omega
  · rintro h size ⟨hbits, hwords⟩
    cases size <;> simp only [keyWords, keyBits] at hbits hwords <;> omega

section Init
variable {s t : State} {p : Snapshot} {keybits keywords : Nat} {size : KeySize}

theorem exec_init_of_rejected (hp : s.pending = some p) (h : acceptedKeySize keybits keywords = none) :
    exec (.init keybits keywords) s = .next (completeCommand (raiseError .invalidKeyLength s)) := by
  simp only [exec, execInit, hp, h]

theorem exec_init_of_accepted (hp : s.pending = some p) (hsize : keybits = keyBits size)
    (hwords : keybits / 32 ≤ keywords) : exec (.init keybits keywords) s =
      .next (completeCommand (reportSuccess (commitContext (buildContext size p.key) s))) := by
  subst hsize
  have haccepted := (acceptedKeySize_eq_some_iff (keyBits size) keywords size).2 ⟨rfl, hwords⟩
  simp only [exec, execInit, hp, haccepted]

/-- The context an accepted INIT leaves is that of its snapshot's key (rule R160). -/
theorem init_ctx (hp : s.pending = some p) (hsize : keybits = keyBits size) (hwords : keybits / 32 ≤ keywords)
    (h : exec (.init keybits keywords) s = .next t) : t.ctx = buildContext size p.key := by
  cases h.symm.trans (exec_init_of_accepted hp hsize hwords)
  rfl

end Init

/-- The table of key sizes, row by row (rule R151). -/
theorem eq_keyBits_of_row {size : KeySize} {keybits : Nat}
    (h : size = .k128 ∧ keybits = 128 ∨ size = .k192 ∧ keybits = 192 ∨ size = .k256 ∧ keybits = 256) :
    keybits = keyBits size := by
  rcases h with ⟨rfl, rfl⟩ | ⟨rfl, rfl⟩ | ⟨rfl, rfl⟩ <;> rfl

/-- Settles O15: both halves of rule R151's test reject, and then INIT only raises the error. -/
theorem initRejectsBadKeyLength : Obligations.InitRejectsBadKeyLength := by
  intro s p keybits keywords hp hbad
  exact exec_init_of_rejected hp ((acceptedKeySize_eq_none_iff keybits keywords).2 hbad)

/-- Settles O12: the key length is accepted, and the new context is `buildContext`'s at each key size. -/
theorem initCommitsTheContext : Obligations.InitCommitsTheContext := by
  intro s p size keybits keywords hp hrow hwords
  rw [exec_init_of_accepted hp (eq_keyBits_of_row hrow) hwords]
  cases size with
  | k128 => rfl
  | k192 => rfl
  | k256 => rfl

/-! ### The encryption keys (rules R152 to R157) -/

/-- The model's rotation right is the library's (rule R12). -/
theorem ror_eq_rotateRight (v : Block) {n : Nat} (h : n < 128) : ror v n = v.rotateRight n := by
  rw [ror, BitVec.rotateRight_def, Nat.mod_eq_of_lt h]

/-- A rotation left is the rotation right by the rest of the 128 places (rule R12). -/
theorem rol_eq_rotateRight (v : Block) {n : Nat} (h : 0 < n) : rol v n = v.rotateRight (128 - n) :=
  ror_eq_rotateRight v (by omega)

/-- KR of a 192-bit key: two key words, then 64 zero bits (rule R152). -/
theorem padRight_k192 (key : Vector Word 8) : padRight .k192 key = key[4] ++ key[5] ++ 0#64 :=
  BitVec.append_assoc (x₁ := key[4] ++ key[5]) (x₂ := 0#32) (x₃ := 0#32)

/-- The key equations with right rotations only: 61, 31 and 19 to the left are 67, 97 and 109 to the right (rules R155,
R156). -/
theorem expandKeys_eq_rotateRight (w0 w1 w2 w3 : Block) : expandKeys w0 w1 w2 w3 = #v[
    w0 ^^^ w1.rotateRight 19, w1 ^^^ w2.rotateRight 19, w2 ^^^ w3.rotateRight 19, w0.rotateRight 19 ^^^ w3,
    w0 ^^^ w1.rotateRight 31, w1 ^^^ w2.rotateRight 31, w2 ^^^ w3.rotateRight 31, w0.rotateRight 31 ^^^ w3,
    w0 ^^^ w1.rotateRight 67, w1 ^^^ w2.rotateRight 67, w2 ^^^ w3.rotateRight 67, w0.rotateRight 67 ^^^ w3,
    w0 ^^^ w1.rotateRight 97, w1 ^^^ w2.rotateRight 97, w2 ^^^ w3.rotateRight 97, w0.rotateRight 97 ^^^ w3,
    w0 ^^^ w1.rotateRight 109] := by
  simp (disch := decide) only [expandKeys, ror_eq_rotateRight, rol_eq_rotateRight, Nat.reduceSub]

/-- Settles O13: the words are those `encryptionKeys` computes, and the equations are its own with every left rotation
written as a right one. -/
theorem initDerivesEncryptionKeys : Obligations.InitDerivesEncryptionKeys := by
  intro s t p size keybits keywords hp hrow hwords h
  rw [init_ctx hp (eq_keyBits_of_row hrow) hwords h]
  refine ⟨_, _, _, _, _, _, _, _, ?constants, ?kr, rfl, rfl, rfl, rfl,
    expandKeys_eq_rotateRight (padLeft p.key) _ _ _, ?rounds⟩
  case constants => cases size <;> rfl
  case kr =>
    cases size with
    | k128 => rfl
    | k192 => exact padRight_k192 p.key
    | k256 => rfl
  case rounds => cases size <;> rfl

/-! ### The decryption keys (rules R158, R159) -/

section DecryptionKey
variable (ek : Vector Block 17) {r i : Nat}

theorem decryptionKey_first : decryptionKey ek r 0 = keyAt ek (r - 1) := rfl

theorem decryptionKey_interior (h1 : 1 ≤ i) (h2 : i + 2 ≤ r) :
    decryptionKey ek r i = diffuse (keyAt ek (r - 1 - i)) := by
  rw [decryptionKey, if_neg (by omega), if_pos h2]

theorem decryptionKey_last (hr : 2 ≤ r) : decryptionKey ek r (r - 1) = keyAt ek 0 := by
  rw [decryptionKey, if_neg (by omega), if_neg (by omega), if_pos (by omega)]

theorem decryptionKey_beyond (hr : 1 ≤ r) (h : r ≤ i) : decryptionKey ek r i = 0 := by
  rw [decryptionKey, if_neg (by omega), if_neg (by omega), if_neg (by omega)]

end DecryptionKey

/-- The table of key sizes with their round counts (rule R153). -/
theorem exists_keySize_of_row {keybits r : Nat}
    (h : keybits = 128 ∧ r = 13 ∨ keybits = 192 ∧ r = 15 ∨ keybits = 256 ∧ r = 17) :
    ∃ size, keybits = keyBits size ∧ r = roundNumber (roundCountOf size) := by
  rcases h with h | h | h
  · exact ⟨.k128, h⟩
  · exact ⟨.k192, h⟩
  · exact ⟨.k256, h⟩

/-- Settles O14: entry by entry of the table, `decryptionKey` is the case of rules R158 and R159 that its index falls
in. -/
theorem initDerivesDecryptionKeys : Obligations.InitDerivesDecryptionKeys := by
  intro s t p keybits keywords r hp hrow hwords h
  obtain ⟨size, hsize, hr⟩ := exists_keySize_of_row hrow
  have hbounds : 13 ≤ r ∧ r ≤ 17 := hr ▸ roundCountOf_bounds size
  have entry (i : Nat) (hi : i < 17) : keyAt t.ctx.dk i = decryptionKey t.ctx.ek r i := by
    rw [init_ctx hp hsize hwords h, hr]
    exact keyAt_decryptionKeys _ _ i hi
  refine ⟨?first, fun i h1 h2 => ?interior, ?last, fun i h1 h2 => ?beyond⟩
  case first => rw [entry 0 (by omega), decryptionKey_first]
  case interior => rw [entry i (by omega), decryptionKey_interior _ h1 (by omega)]
  case last => rw [entry (r - 1) (by omega), decryptionKey_last _ (by omega)]
  case beyond => rw [entry i (by omega), decryptionKey_beyond _ (by omega) h1]

end Sys2Proof.Machine

namespace Sys2Proof.Machine

/-! ### The rounds of the block transform (45_block_transform.md rules R182, R183) -/

section Rounds
variable (k : Vector Block 17) {j : Nat} (pin : Block)

/-- From round 1 on, the working value is that of the round before, taken through one more round. -/
theorem runRounds_of_pos (h : 1 ≤ j) : runRounds k j pin = roundStep k j (runRounds k (j - 1) pin) := by
  cases j with
  | zero => exact absurd h (by decide)
  | succ j => rfl

theorem runRounds_of_odd (h : 1 ≤ j) (hodd : j % 2 = 1) :
    runRounds k j pin = fo (runRounds k (j - 1) pin) (keyAt k (j - 1)) := by
  rw [runRounds_of_pos k pin h, roundStep, if_pos hodd]

theorem runRounds_of_even (h : 1 ≤ j) (heven : j % 2 = 0) :
    runRounds k j pin = fe (runRounds k (j - 1) pin) (keyAt k (j - 1)) := by
  rw [runRounds_of_pos k pin h, roundStep, if_neg (by omega)]

end Rounds

/-- Settles O19: the working values are those of `runRounds`, and the transform is the final step on the last of them,
whatever the round count. -/
theorem transformFollowsTheRounds : Obligations.TransformFollowsTheRounds := by
  intro r k pin _
  exact ⟨fun j => runRounds k j pin, rfl, fun _ h _ hodd => runRounds_of_odd k pin h hodd,
    fun _ h _ heven => runRounds_of_even k pin h heven, rfl⟩

/-! ### A transform with no context (rules R188, R202) -/

theorem runTransform_of_noContext (table : Context → Vector Block 17) {s : State} {p : Snapshot}
    (hp : s.pending = some p) (hctx : s.ctx.valid = false) :
    runTransform table s = .next (completeCommand (raiseError .noContext s)) := by
  simp only [runTransform, hp, hctx, Bool.false_eq_true, if_false]

/-- Settles O20: both commands are `runTransform`, which without a context only raises NoContext, under either table. -/
theorem transformWithoutContextRaisesNoContext : Obligations.TransformWithoutContextRaisesNoContext := by
  rintro s p i hp hctx (rfl | rfl)
  · exact runTransform_of_noContext Context.ek hp hctx
  · exact runTransform_of_noContext Context.dk hp hctx

end Sys2Proof.Machine

namespace Sys2Proof.Machine

/-! ### The engine step, named or by an empty script (30_encoding.md rule R92) -/

section StepEngine
variable {s : State}

theorem step_of_script_nil (hs : s.script = []) : step s = engineStep s := by
  simp only [step, hs]

theorem step_of_script_engineStep {rest : List Event} (hs : s.script = .engineStep :: rest) :
    step s = engineStep (setScript rest s) := by
  simp only [step, hs, runEvent]

end StepEngine

/-- An idle engine keeps all its state (rule R215). -/
theorem engineStep_of_idle {s : State} (hp : s.pending = none) : engineStep s = .next s := by
  simp only [engineStep, hp]

/-- A pending word that decodes to no command is completed as illegal (rules R87, R203). -/
theorem engineStep_of_decode_error {s : State} {p : Snapshot} {e : DecodeError} (hp : s.pending = some p)
    (hd : decode p.cmd = .error e) : engineStep s = .next (completeIllegal s) := by
  simp only [engineStep, hp, hd]

/-- A pending word that decodes is executed (rule R92). -/
theorem engineStep_of_decode_ok {s : State} {p : Snapshot} {i : Instr} (hp : s.pending = some p)
    (hd : decode p.cmd = .ok i) : engineStep s = exec i s := by
  simp only [engineStep, hp, hd]

/-- Settles O9: an OPC that names no command fails to decode, and the completion of an illegal command writes just the
three components. -/
theorem illegalCommandCompletesWithError : Obligations.IllegalCommandCompletesWithError := by
  intro s p hp hopc
  exact ⟨engineStep_of_decode_error hp (decode_of_opc_illegal hopc), step_of_script_nil,
    fun _ => step_of_script_engineStep⟩

/-! ### What the engine step does not read (60_exceptions.md rule R205) -/

/-- The state with changes in the three components that no command reads or writes: another OVR, another script, and
further replies. -/
abbrev State.withUnread (s : State) (ovr : Bool) (script : List Event) (added : List Reply) : State :=
  { s with ovr := ovr, script := script, replies := s.replies ++ added }

/-- A transform with a context writes its result and reports success (rules R180, R181, R189). -/
theorem runTransform_of_context (table : Context → Vector Block 17) {s : State} {p : Snapshot}
    (hp : s.pending = some p) (hctx : s.ctx.valid = true) :
    runTransform table s = .next (completeCommand (reportSuccess
      (writeResult (transform (roundNumber s.ctx.rounds) (table s.ctx) (inputBlock p.din)) s))) := by
  simp only [runTransform, hp, hctx, if_true]

section Unread
variable {s t : State} {p : Snapshot} (ovr : Bool) (script : List Event) (added : List Reply)

theorem execInit_withUnread {keybits keywords : Nat} (hp : s.pending = some p)
    (h : exec (.init keybits keywords) s = .next t) :
    exec (.init keybits keywords) (s.withUnread ovr script added) = .next (t.withUnread ovr script added) := by
  cases hsize : acceptedKeySize keybits keywords with
  | none =>
    cases h.symm.trans (exec_init_of_rejected hp hsize)
    exact exec_init_of_rejected hp hsize
  | some size =>
    obtain ⟨hbits, hwords⟩ := (acceptedKeySize_eq_some_iff _ _ _).1 hsize
    have henough : keybits / 32 ≤ keywords := hbits ▸ hwords
    cases h.symm.trans (exec_init_of_accepted hp hbits henough)
    exact exec_init_of_accepted hp hbits henough

theorem runTransform_withUnread {table : Context → Vector Block 17} (hp : s.pending = some p)
    (h : runTransform table s = .next t) :
    runTransform table (s.withUnread ovr script added) = .next (t.withUnread ovr script added) := by
  cases hctx : s.ctx.valid with
  | false =>
    cases h.symm.trans (runTransform_of_noContext table hp hctx)
    exact runTransform_of_noContext table hp hctx
  | true =>
    cases h.symm.trans (runTransform_of_context table hp hctx)
    exact runTransform_of_context table hp hctx

/-- The engine step looks at neither OVR nor the script nor the replies, and keeps whatever they hold (rule R205). -/
theorem engineStep_withUnread (h : engineStep s = .next t) :
    engineStep (s.withUnread ovr script added) = .next (t.withUnread ovr script added) := by
  cases hp : s.pending with
  | none =>
    cases h.symm.trans (engineStep_of_idle hp)
    exact engineStep_of_idle hp
  | some p =>
    cases hd : decode p.cmd with
    | error e =>
      cases h.symm.trans (engineStep_of_decode_error hp hd)
      exact engineStep_of_decode_error hp hd
    | ok i =>
      have hexec : exec i s = .next t := (engineStep_of_decode_ok hp hd).symm.trans h
      refine (engineStep_of_decode_ok (s := s.withUnread ovr script added) hp hd).trans ?_
      cases i with
      | init keybits keywords => exact execInit_withUnread ovr script added hp hexec
      | encrypt => exact runTransform_withUnread ovr script added hp hexec
      | decrypt => exact runTransform_withUnread ovr script added hp hexec

end Unread

/-- Settles O37: the write is O38's dropped command, and the engine step sees nothing of what it left behind. -/
theorem busyEngineDropsACommand : Obligations.BusyEngineDropsACommand := by
  intro s host v rest hs hpending
  obtain ⟨-, hdropped, -⟩ := hostWritesFollowTheRegisterMap s _ host 0x00 v rest hs rfl
  exact ⟨hdropped rfl hpending, fun _ ht => engineStep_withUnread true rest [⟨writeAccess host 0x00 v, .written⟩] ht⟩

end Sys2Proof.Machine

namespace Sys2Proof

/-! ### The fields of a command word (30_encoding.md rules R81 to R86) -/

/-- KEYBITS of INIT's word (rules R84, R93). -/
theorem keybitsField_encode_init (kb kw : Nat) : keybitsField (encode (.init kb kw)) = BitVec.ofNat 16 kb := by
  simp only [keybitsField, encode]
  rw [Machine.extract_append_high _ _ _ _ (by decide), Machine.extract_append_high _ _ _ _ (by decide),
    Machine.extract_append_high _ _ _ _ (by decide), Machine.extract_append_high _ _ _ _ (by decide)]
  exact Machine.extract_whole _

/-- KEYWORDS of INIT's word (rules R85, R93). -/
theorem keywordsField_encode_init (kb kw : Nat) : keywordsField (encode (.init kb kw)) = BitVec.ofNat 4 kw := by
  simp only [keywordsField, encode]
  rw [Machine.extract_append_high _ _ _ _ (by decide), Machine.extract_append_high _ _ _ _ (by decide),
    Machine.extract_append_low _ _ _ _ (by decide)]
  exact Machine.extract_whole _

/-- Settles O3: the word of an instruction carries its OPC, and INIT's operands come back from their fields because they
fit them. -/
theorem decodeOfEncodeIsTheInstruction : Obligations.DecodeOfEncodeIsTheInstruction := by
  intro i hwf
  rw [decode_ok_iff]
  cases i with
  | init kb kw =>
    have ⟨hkb, hkw⟩ : kb ≤ 65535 ∧ kw ≤ 15 := by simpa [Instr.WellFormed, Instr.wellFormed] using hwf
    refine .inl ⟨Laws.EncodeCarriesOpcode.init kb kw, ?_⟩
    rw [keybitsField_encode_init, keywordsField_encode_init, BitVec.toNat_ofNat, BitVec.toNat_ofNat,
      Nat.mod_eq_of_lt (by omega), Nat.mod_eq_of_lt (by omega)]
  | encrypt => exact .inr (.inl ⟨Laws.EncodeCarriesOpcode.encrypt, rfl⟩)
  | decrypt => exact .inr (.inr ⟨Laws.EncodeCarriesOpcode.decrypt, rfl⟩)

/-- Two adjacent cuts of a word, put together, are one cut. -/
theorem extract_adjacent (w : Word) (b m n : Nat) :
    w.extractLsb' (b + m) n ++ w.extractLsb' b m = w.extractLsb' b (n + m) :=
  BitVec.extractLsb'_append_extractLsb'_eq_extractLsb' rfl

/-- A command word in format B: bits 31:4 and OPC (rule R82). -/
theorem word_eq_formatB (w : Word) : w = w.extractLsb' 4 28 ++ opcField w := by
  rw [opcField, extract_adjacent w 0 4 28]
  exact (Machine.extract_whole w).symm

/-- A command word in format K: KEYBITS, bits 15:12, KEYWORDS, bits 7:4 and OPC (rule R81). -/
theorem word_eq_formatK (w : Word) :
    w = keybitsField w ++ w.extractLsb' 12 4 ++ keywordsField w ++ w.extractLsb' 4 4 ++ opcField w := by
  rw [keybitsField, keywordsField, opcField, extract_adjacent w 12 4 16, extract_adjacent w 8 4 (16 + 4),
    extract_adjacent w 4 4 (16 + 4 + 4), extract_adjacent w 0 4 (16 + 4 + 4 + 4)]
  exact (Machine.extract_whole w).symm

/-- The mask of format K clears bits 15:12 and 7:4, and keeps the fields (rules R81, R86). -/
theorem and_maskFormatK (w : Word) :
    w &&& 0xFFFF0F0F = keybitsField w ++ 0#4 ++ keywordsField w ++ 0#4 ++ opcField w := by
  have cut (b n : Nat) :
      (w &&& 0xFFFF0F0F).extractLsb' b n = w.extractLsb' b n &&& (0xFFFF0F0F : Word).extractLsb' b n := BitVec.extractLsb'_and
  have hkeep16 : (0xFFFF0F0F : Word).extractLsb' 16 16 = BitVec.allOnes 16 := by decide
  have hclear12 : (0xFFFF0F0F : Word).extractLsb' 12 4 = 0#4 := by decide
  have hkeep8 : (0xFFFF0F0F : Word).extractLsb' 8 4 = BitVec.allOnes 4 := by decide
  have hclear4 : (0xFFFF0F0F : Word).extractLsb' 4 4 = 0#4 := by decide
  have hkeep0 : (0xFFFF0F0F : Word).extractLsb' 0 4 = BitVec.allOnes 4 := by decide
  rw [word_eq_formatK (w &&& 0xFFFF0F0F)]
  simp only [keybitsField, keywordsField, opcField, cut, hkeep16, hclear12, hkeep8, hclear4, hkeep0,
    BitVec.and_allOnes, BitVec.and_zero]

/-- The mask of format B clears bits 31:4, and keeps OPC (rules R82, R86). -/
theorem and_maskFormatB (w : Word) : w &&& 0x0000000F = 0#28 ++ opcField w := by
  have cut (b n : Nat) :
      (w &&& 0x0000000F).extractLsb' b n = w.extractLsb' b n &&& (0x0000000F : Word).extractLsb' b n := BitVec.extractLsb'_and
  have hclear4 : (0x0000000F : Word).extractLsb' 4 28 = 0#28 := by decide
  have hkeep0 : (0x0000000F : Word).extractLsb' 0 4 = BitVec.allOnes 4 := by decide
  rw [word_eq_formatB (w &&& 0x0000000F)]
  simp only [opcField, cut, hclear4, hkeep0, BitVec.and_allOnes, BitVec.and_zero]

/-- Clearing the reserved bits, by the format OPC names (rules R81, R82, R86). -/
theorem clearReserved_of_formatK {w : Word} (hopc : opcField w = 1) :
    clearReserved w = keybitsField w ++ 0#4 ++ keywordsField w ++ 0#4 ++ 1#4 := by
  rw [clearReserved, if_pos hopc, and_maskFormatK, hopc]; rfl

theorem clearReserved_of_formatB {w : Word} (hopc : opcField w = 2 ∨ opcField w = 3) :
    clearReserved w = 0#28 ++ opcField w := by
  have hnotInit : opcField w ≠ 1 := by rcases hopc with h | h <;> simp [h]
  rw [clearReserved, if_neg hnotInit, if_pos hopc, and_maskFormatB]

/-- Settles O4: the decoded operands are the word's fields, so the instruction's word has them and 0 in between. -/
theorem decodedWordReencodesWithReservedBitsClear : Obligations.DecodedWordReencodesWithReservedBitsClear := by
  intro w i h
  rcases (decode_ok_iff w i).1 h with ⟨hopc, rfl⟩ | ⟨hopc, rfl⟩ | ⟨hopc, rfl⟩
  · have hkeybits := (keybitsField w).isLt
    have hkeywords := (keywordsField w).isLt
    constructor
    · simp only [Instr.WellFormed, Instr.wellFormed, Bool.and_eq_true, decide_eq_true_eq]
      omega
    · rw [clearReserved_of_formatK hopc]
      simp only [encode, opcode, BitVec.ofNat_toNat, BitVec.setWidth_eq]
      rfl
  · exact ⟨rfl, by rw [clearReserved_of_formatB (.inl hopc), hopc]; rfl⟩
  · exact ⟨rfl, by rw [clearReserved_of_formatB (.inr hopc), hopc]; rfl⟩

end Sys2Proof

namespace Sys2Proof.Machine

/-! ### What a step can do, by what it changes (20_memory.md rules R56, R57; 30_encoding.md rule R92) -/

/-- The kinds of step, each with the state it leaves. A step uses up events and may add replies, and does one of these
to the engine: nothing, one register write, one completion of the pending command, or a reset. -/
inductive StepOutcome (s : State) : State → Prop
  /-- A read, a rejected access, a turn of WAIT, or an engine step while idle. -/
  | quiet (es : List Event) (rs : List Reply) : StepOutcome s { s with script := es, replies := rs }
  | write (r : Reg) (v : Word) (es : List Event) (rs : List Reply) (hwrite : s.writeNext (regOffset r) v) :
      StepOutcome s (writeReg r v { s with script := es, replies := rs })
  | error (e : ErrCode) (p : Snapshot) (es : List Event) (hnext : s.engineNext) (hp : s.pending = some p)
      (hctx : e = .noContext → s.ctx.valid = false) :
      StepOutcome s (completeCommand (raiseError e { s with script := es }))
  | init (size : KeySize) (keybits keywords : Nat) (p : Snapshot) (es : List Event) (hnext : s.engineNext)
      (hp : s.pending = some p) (hd : decode p.cmd = .ok (.init keybits keywords)) :
      StepOutcome s (completeCommand (reportSuccess (commitContext (buildContext size p.key) { s with script := es })))
  | transform (y : Block) (p : Snapshot) (es : List Event) (hnext : s.engineNext) (hp : s.pending = some p)
      (hd : decode p.cmd = .ok .encrypt ∨ decode p.cmd = .ok .decrypt) (hctx : s.ctx.valid = true) :
      StepOutcome s (completeCommand (reportSuccess (writeResult y { s with script := es })))
  | reset (es : List Event) (hnext : s.resetNext) : StepOutcome s (resetEngine { s with script := es })

/-- The engine step is quiet or completes the pending command. -/
theorem stepOutcome_of_engineStep {s t : State} (es : List Event) (hnext : s.engineNext)
    (h : engineStep (setScript es s) = .next t) : StepOutcome s t := by
  rcases engineStep_cases (setScript es s) with
    ⟨-, he⟩ | ⟨p, hp, ⟨e, -, hctx, he⟩ | ⟨kb, kw, size, hd, -, he⟩ | ⟨y, hctx, hd, he⟩⟩ <;>
    cases h.symm.trans he
  · exact .quiet es s.replies
  · exact .error e p es hnext hp hctx
  · exact .init size kb kw p es hnext hp hd
  · exact .transform y p es hnext hp hd hctx

/-- A host access is quiet or writes one register. -/
theorem stepOutcome_of_access {s : State} {a : Access} {rest : List Event} (hs : s.script = .access a :: rest) :
    StepOutcome s (performAccess a (setScript rest s)) := by
  rw [performAccess]
  rcases accessEffect_cases a (setScript rest s) with he | ⟨r, v, hw, he⟩
  · rw [he]
    exact .quiet rest _
  · rw [he, recordReply_writeReg_setScript]
    exact .write r v rest _ ⟨a.host, rest, hw ▸ hs⟩

/-- Every step is of one of the kinds. -/
theorem stepOutcome_of_step {s t : State} (h : step s = .next t) : StepOutcome s t := by
  rcases step_cases s with ⟨hs, he⟩ | ⟨rest, hs, he⟩ | ⟨a, rest, hs, he⟩ | ⟨host, rest, hs, he⟩ | ⟨rest, hs, he⟩
  · refine stepOutcome_of_engineStep [] (.inl hs) ?_
    rw [← hs]
    exact he.symm.trans h
  · exact stepOutcome_of_engineStep rest (.inr ⟨rest, hs⟩) (he.symm.trans h)
  · cases h.symm.trans he
    exact stepOutcome_of_access hs
  · cases h.symm.trans he
    rw [pollStatus_eq]
    exact .quiet _ _
  · cases h.symm.trans he
    exact .reset rest ⟨rest, hs⟩

/-- Settles O11: the engine step always has a next state, and every other event is answered by one. -/
theorem everyStepHasANextState : Obligations.EveryStepHasANextState := by
  intro s
  rcases step_cases s with ⟨-, he⟩ | ⟨rest, -, he⟩ | ⟨a, rest, -, he⟩ | ⟨host, rest, -, he⟩ | ⟨rest, -, he⟩
  · exact he ▸ engineStep_next s
  · exact he ▸ engineStep_next (setScript rest s)
  · exact ⟨_, he⟩
  · exact ⟨_, he⟩
  · exact ⟨_, he⟩

/-! ### The machine's invariant (10_state.md sections 2 to 6) -/

/-- A write of a register other than CMD leaves PENDING, DONE and ERR alone (rule R57). -/
theorem writeReg_command_frame {r : Reg} (hcmd : r ≠ .cmd) (v : Word) (s : State) :
    (writeReg r v s).pending = s.pending ∧ (writeReg r v s).done = s.done ∧ (writeReg r v s).err = s.err := by
  cases r with
  | cmd => exact absurd rfl hcmd
  | status => simp [writeReg]
  | key i => exact ⟨rfl, rfl, rfl⟩
  | din i => exact ⟨rfl, rfl, rfl⟩
  | dout i => exact ⟨rfl, rfl, rfl⟩

/-- The invariant speaks of five components only. -/
theorem State.Inv.congr {s t : State} (h : s.Inv) (hctx : t.ctx = s.ctx) (hdout : t.dout = s.dout)
    (hpending : t.pending = s.pending) (hdone : t.done = s.done) (herr : t.err = s.err) : t.Inv := by
  obtain ⟨hcontext, htables, hclean, hnoContext, hfresh⟩ := h
  constructor
  · rw [hctx]; exact hcontext
  · rw [hctx]; exact htables
  · rw [State.pendingClean, hpending, hdone, herr]; exact hclean
  · rw [State.noContextClean, hctx, hdout, herr]; exact hnoContext
  · rw [State.freshClean, hpending, hdone, herr, hctx, hdout]; exact hfresh

/-- Settles O47: all components the invariant speaks of are 0 or none. -/
theorem resetMeetsTheInvariant : Obligations.ResetMeetsTheInvariant where
  context := by decide
  tables := ⟨rfl, rfl⟩
  pending := fun _ => ⟨rfl, rfl⟩
  noContext := ⟨fun _ => rfl, fun _ => rfl⟩
  fresh := fun _ _ => ⟨rfl, rfl, rfl⟩

section InvariantKept
variable {s : State}

/-- An accepted command: DONE and ERR are 0 while it is pending. -/
theorem State.Inv.acceptCommand (h : s.Inv) (v : Word) : (acceptCommand v s).Inv where
  context := h.context
  tables := h.tables
  pending := fun _ => ⟨rfl, rfl⟩
  noContext := ⟨h.noContext.1, nofun⟩
  fresh := nofun

theorem State.Inv.writeReg (h : s.Inv) (r : Reg) (v : Word) : (writeReg r v s).Inv := by
  by_cases hcmd : r = .cmd
  · subst hcmd
    rcases issueCommand_cases v s with ⟨-, he⟩ | ⟨-, he⟩ <;> simp only [Machine.writeReg, he]
    · exact h.acceptCommand v
    · exact h.congr rfl rfl rfl rfl rfl
  · obtain ⟨hctx, hdout, -, -⟩ := writeReg_frame r v s
    obtain ⟨hpending, hdone, herr⟩ := writeReg_command_frame hcmd v s
    exact h.congr hctx hdout hpending hdone herr

/-- A completed command has DONE 1, so only what it says of the context and the error is left to show. -/
theorem State.Inv.completeCommand (hcontext : s.ctx.consistent) (htables : s.ctx.tablesAgree)
    (hnoContext : s.noContextClean) : (completeCommand s).Inv where
  context := hcontext
  tables := htables
  pending := nofun
  noContext := hnoContext
  fresh := nofun

end InvariantKept

/-- Settles O48: each kind of step keeps the five components the invariant speaks of, or leaves them in one of the
shapes above. -/
theorem everyStepKeepsTheInvariant : Obligations.EveryStepKeepsTheInvariant := by
  intro s t hinv h
  have kept (es : List Event) (rs : List Reply) : State.Inv { s with script := es, replies := rs } :=
    hinv.congr rfl rfl rfl rfl rfl
  obtain ⟨hcontext, htables, -, hdoutClean, -⟩ := hinv
  cases stepOutcome_of_step h with
  | quiet es rs => exact kept es rs
  | write r v es rs => exact (kept es rs).writeReg r v
  | error e p es hnext hp hctx => exact .completeCommand hcontext htables ⟨hdoutClean.1, hctx⟩
  | init size kb kw p es hnext hp hd =>
    obtain ⟨hbuiltContext, hbuiltTables⟩ := buildContext_agrees size p.key
    exact .completeCommand hbuiltContext hbuiltTables ⟨nofun, nofun⟩
  | transform y p es hnext hp hd hctx =>
    exact .completeCommand hcontext htables ⟨fun hv => absurd (hctx.symm.trans hv) (by decide), nofun⟩
  | reset es hnext => exact resetMeetsTheInvariant.congr rfl rfl rfl rfl rfl

/-- Settles O49: CTX changes at an INIT that succeeds and at a reset only, and both leave fields that agree. -/
theorem contextFieldsAlwaysAgree : Obligations.ContextFieldsAlwaysAgree := by
  refine ⟨resetMeetsTheInvariant.context, fun s t hc h => ?_⟩
  cases stepOutcome_of_step h with
  | quiet es rs => exact hc
  | write r v es rs => rw [(writeReg_frame r v _).1]; exact hc
  | error e p es => exact hc
  | init size kb kw p es => exact (buildContext_agrees size p.key).1
  | transform y p es => exact hc
  | reset es => exact resetMeetsTheInvariant.context

/-! ### When a component changes -/

/-- Settles O50: of the kinds of step, only an INIT that succeeds and a reset write CTX. -/
theorem contextChangesOnlyByInitOrReset : Obligations.ContextChangesOnlyByInitOrReset := by
  intro s t h hchange
  cases stepOutcome_of_step h with
  | quiet es rs => exact absurd rfl hchange
  | write r v es rs => exact absurd (writeReg_frame r v _).1 hchange
  | error e p es => exact absurd rfl hchange
  | init size kb kw p es hnext hp hd => exact .inr ⟨hnext, rfl, rfl, p, kb, kw, hp, hd⟩
  | transform y p es => exact absurd rfl hchange
  | reset es hnext => exact .inl hnext

/-- Settles O51: of the kinds of step, only a transform with a context and a reset write DOUT. -/
theorem resultChangesOnlyByTransformOrReset : Obligations.ResultChangesOnlyByTransformOrReset := by
  intro s t h hchange
  cases stepOutcome_of_step h with
  | quiet es rs => exact absurd rfl hchange
  | write r v es rs => exact absurd (writeReg_frame r v _).2.1 hchange
  | error e p es => exact absurd rfl hchange
  | init size kb kw p es => exact absurd rfl hchange
  | transform y p es hnext hp hd hctx => exact .inr ⟨hnext, hctx, rfl, p, hp, hd⟩
  | reset es hnext => exact .inl hnext

/-- A register write changes KEY or DIN only at the written word (rule R57). -/
theorem writeReg_key_din (r : Reg) (v : Word) (s : State) :
    ((writeReg r v s).key = s.key ∨ ∃ i, r = .key i ∧ (writeReg r v s).key = s.key.set i v) ∧
      ((writeReg r v s).din = s.din ∨ ∃ i, r = .din i ∧ (writeReg r v s).din = s.din.set i v) := by
  cases r with
  | cmd => rcases issueCommand_cases v s with ⟨-, he⟩ | ⟨-, he⟩ <;> simp [writeReg, he]
  | status => simp [writeReg]
  | key i => exact ⟨.inr ⟨i, rfl, rfl⟩, .inl rfl⟩
  | din i => exact ⟨.inl rfl, .inr ⟨i, rfl, rfl⟩⟩
  | dout i => exact ⟨.inl rfl, .inl rfl⟩

/-- Settles O52: of the kinds of step, only a register write and a reset touch KEY or DIN. -/
theorem keyAndInputChangeOnlyByHosts : Obligations.KeyAndInputChangeOnlyByHosts := by
  intro s t h
  cases stepOutcome_of_step h with
  | quiet es rs => exact ⟨absurd rfl, absurd rfl⟩
  | write r v es rs hwrite =>
    obtain ⟨hkey, hdin⟩ := writeReg_key_din r v { s with script := es, replies := rs }
    constructor
    · rcases hkey with hsame | ⟨i, rfl, hset⟩
      · exact absurd hsame
      · exact fun _ => .inr ⟨i, v, hwrite, hset⟩
    · rcases hdin with hsame | ⟨i, rfl, hset⟩
      · exact absurd hsame
      · exact fun _ => .inr ⟨i, v, hwrite, hset⟩
  | error e p es => exact ⟨absurd rfl, absurd rfl⟩
  | init size kb kw p es => exact ⟨absurd rfl, absurd rfl⟩
  | transform y p es => exact ⟨absurd rfl, absurd rfl⟩
  | reset es hnext => exact ⟨fun _ => .inl hnext, fun _ => .inl hnext⟩

/-- A register write leaves PENDING and DONE, unless it is a write of CMD that is accepted (rule R57). -/
theorem writeReg_pending_done (r : Reg) (v : Word) (s : State) :
    ((writeReg r v s).pending = s.pending ∧ (writeReg r v s).done = s.done) ∨
      (r = .cmd ∧ s.pending = none ∧ writeReg r v s = acceptCommand v s) := by
  by_cases hcmd : r = .cmd
  · subst hcmd
    rcases issueCommand_cases v s with ⟨hidle, he⟩ | ⟨-, he⟩
    · exact .inr ⟨rfl, hidle, he⟩
    · exact .inl (by simp [writeReg, he])
  · obtain ⟨hpending, hdone, -⟩ := writeReg_command_frame hcmd v s
    exact .inl ⟨hpending, hdone⟩

/-- What a step does to BUSY and DONE. -/
theorem step_busy_done_cases {s t : State} (h : step s = .next t) :
    (busy t = busy s ∧ t.done = s.done) ∨
    ((∃ v, s.writeNext 0x00 v) ∧ busy s = false ∧ busy t = true ∧ t.done = false) ∨
    (s.engineNext ∧ busy s = true ∧ busy t = false ∧ t.done = true) ∨
    (s.resetNext ∧ busy t = false ∧ t.done = false) := by
  have pendingBusy {p : Snapshot} (hp : s.pending = some p) : busy s = true := by simp [busy, hp]
  cases stepOutcome_of_step h with
  | quiet es rs => exact .inl ⟨rfl, rfl⟩
  | write r v es rs hwrite =>
    rcases writeReg_pending_done r v { s with script := es, replies := rs } with ⟨hpending, hdone⟩ | ⟨rfl, hidle, he⟩
    · exact .inl ⟨congrArg Option.isSome hpending, hdone⟩
    · exact .inr (.inl ⟨⟨v, hwrite⟩, congrArg Option.isSome hidle, by rw [he]; rfl, by rw [he]; rfl⟩)
  | error e p es hnext hp => exact .inr (.inr (.inl ⟨hnext, pendingBusy hp, rfl, rfl⟩))
  | init size kb kw p es hnext hp => exact .inr (.inr (.inl ⟨hnext, pendingBusy hp, rfl, rfl⟩))
  | transform y p es hnext hp => exact .inr (.inr (.inl ⟨hnext, pendingBusy hp, rfl, rfl⟩))
  | reset es hnext => exact .inr (.inr (.inr ⟨hnext, rfl, rfl⟩))

/-- Settles O45: a step keeps BUSY and DONE, accepts a command, completes one, or resets the engine. -/
theorem busyAndDoneFollowTheCommand : Obligations.BusyAndDoneFollowTheCommand := by
  intro s t h
  rcases step_busy_done_cases h with
    ⟨hbusy, hdone⟩ | ⟨hwrite, hidle, hbusy, hdone⟩ | ⟨hnext, hbusy, hidle, hdone⟩ | ⟨hreset, hidle, hdone⟩
  · simp +contextual [hbusy, hdone]
  · simp [hwrite, hidle, hbusy, hdone]
  · simp [hnext, hidle, hbusy, hdone]
  · simp [hreset, hidle, hdone]

end Sys2Proof.Machine

namespace Sys2Proof.Machine

/-! ### Runs of the pending command (30_encoding.md rule R92) -/

/-- Settles O7: both forms of the engine step, and then the decoded command's meaning. -/
theorem stepRunsThePendingCommand : Obligations.StepRunsThePendingCommand := by
  intro s p i hp hd
  exact ⟨fun hs => (step_of_script_nil hs).trans (engineStep_of_decode_ok hp hd),
    fun rest hs => (step_of_script_engineStep hs).trans (engineStep_of_decode_ok (s := setScript rest s) hp hd)⟩

theorem decodeTableWord_eq_some {nbits w : Nat} {i : Instr} (h : decodeTableWord nbits w = some i) :
    decode (tableWord nbits w) = .ok i := by
  rw [decodeTableWord] at h
  split at h
  · next hd => rw [hd, Option.some.inj h]
  · cases h

/-- Settles O8: the placed word is pending, and the engine step, which is next, is O7's. -/
theorem placedCommandRunsNext : Obligations.PlacedCommandRunsNext := by
  intro s nbits w i h
  exact (stepRunsThePendingCommand (s.withFetchWord nbits w) _ i rfl (decodeTableWord_eq_some h)).2 s.script rfl

/-- Settles O10: either form of the engine step keeps the state of an idle engine. -/
theorem idleEngineKeepsItsState : Obligations.IdleEngineKeepsItsState := by
  intro s hp
  exact ⟨fun hs => (step_of_script_nil hs).trans (engineStep_of_idle hp),
    fun rest hs => (step_of_script_engineStep hs).trans (engineStep_of_idle (s := setScript rest s) hp)⟩

/-! ### Accesses (20_memory.md rules R51, R56; 60_exceptions.md rule R210) -/

/-- Settles O35: such an address is not in the window, so the access has no effect and is answered `notDecoded`. -/
theorem addressOutsideWindowIsNotDecoded : Obligations.AddressOutsideWindowIsNotDecoded := by
  intro s a rest hs haddr
  have houtside : ¬ inWindow a.addr := by unfold inWindow; omega
  rw [step_of_access hs, performAccess, accessEffect, accessAnswer, if_neg houtside, if_neg houtside]
  rfl

/-- What an access is answered does not depend on the events to come or the replies made. -/
theorem accessAnswer_outside (a : Access) (s : State) (es : List Event) (rs : List Reply) :
    accessAnswer a { s with script := es, replies := rs } = accessAnswer a s := by
  have hread (r : Reg) : readReg r { s with script := es, replies := rs } = readReg r s := by cases r <;> rfl
  simp only [accessAnswer, answerAt, hread]

/-- The step that takes a read only answers it. -/
theorem step_of_read {s : State} {a : Access} {rest : List Event} (hread : a.kind = .read)
    (hs : s.script = .access a :: rest) : step s = .next (s.answered rest a (accessAnswer a s)) := by
  rw [step_of_access hs, performAccess, accessEffect_read a _ hread]
  exact congrArg (fun ans => Host.Outcome.next (s.answered rest a ans)) (accessAnswer_outside a s rest s.replies)

/-- Settles O36: the first read changes nothing that the second one's answer depends on. -/
theorem readsHaveNoSideEffect : Obligations.ReadsHaveNoSideEffect := by
  intro s a rest hread hs
  refine ⟨accessAnswer a s, step_of_read hread hs, ?_⟩
  have hsame : accessAnswer a (s.answered (.access a :: rest) a (accessAnswer a s)) = accessAnswer a s :=
    accessAnswer_outside a s _ _
  rw [step_of_read hread rfl, hsame]
  simp

/-- The engine does not see who makes an access (rule R210). -/
theorem accessEffect_host (a : Access) (host : Nat) (s : State) :
    accessEffect { a with host := host } s = accessEffect a s := rfl

theorem accessAnswer_host (a : Access) (host : Nat) (s : State) :
    accessAnswer { a with host := host } s = accessAnswer a s := rfl

/-- An access is its effect, which leaves the replies to its own answer. -/
theorem performAccess_eq (a : Access) (s : State) :
    performAccess a s = { accessEffect a s with replies := s.replies ++ [⟨a, accessAnswer a s⟩] } := by
  have hreplies : (accessEffect a s).replies = s.replies := by
    rcases accessEffect_cases a s with he | ⟨r, v, -, he⟩
    · rw [he]
    · rw [he]; exact (writeReg_frame r v s).2.2.2
  rw [performAccess, recordReply, hreplies]

/-- Settles O39: neither the access's effect nor its answer depends on the host. -/
theorem hostsAreIndistinguishable : Obligations.HostsAreIndistinguishable := by
  intro s a host rest hs
  refine ⟨accessEffect a (setScript rest s), accessAnswer a (setScript rest s), ?_, ?_⟩
  · exact (step_of_access hs).trans (congrArg _ (performAccess_eq a (setScript rest s)))
  · refine (step_of_access rfl).trans (congrArg _ ((performAccess_eq _ (setScript rest s)).trans ?_))
    rw [accessEffect_host, accessAnswer_host]
    rfl

/-- Settles O53: the reset state has all these values, and the reset event keeps the script and the replies. -/
theorem resetEventSetsEveryComponent : Obligations.ResetEventSetsEveryComponent := by
  intro s rest hs
  refine ⟨resetEngine (setScript rest s), by simp only [step, hs, runEvent], ?_⟩
  exact ⟨show ∀ i : Fin 8, State.reset.key[i] = 0 by decide, show ∀ i : Fin 4, State.reset.din[i] = 0 by decide,
    show ∀ i : Fin 4, State.reset.dout[i] = 0 by decide, show statusWord State.reset = 0 by decide, rfl, rfl, rfl,
    show ∀ i : Fin 17, State.reset.ctx.ek[i] = 0 by decide, show ∀ i : Fin 17, State.reset.ctx.dk[i] = 0 by decide,
    rfl, rfl, rfl⟩

end Sys2Proof.Machine

namespace Sys2Proof.Machine

/-! ### What INIT reads (44_key_schedule.md rules R150, R152) -/

section InitReads
variable {size : KeySize} {key key' : Vector Word 8}

theorem padLeft_congr (h : ∀ i : Fin 8, i.val < keyWords size → key[i] = key'[i]) : padLeft key = padLeft key' := by
  have hfour : 4 ≤ keyWords size := by cases size <;> decide
  have word (i : Fin 8) (hi : i.val < 4) : key[i] = key'[i] := h i (by omega)
  have h0 : key[0] = key'[0] := word 0 (by decide)
  have h1 : key[1] = key'[1] := word 1 (by decide)
  have h2 : key[2] = key'[2] := word 2 (by decide)
  have h3 : key[3] = key'[3] := word 3 (by decide)
  rw [padLeft, padLeft, h0, h1, h2, h3]

theorem padRight_congr (h : ∀ i : Fin 8, i.val < keyWords size → key[i] = key'[i]) :
    padRight size key = padRight size key' := by
  cases size with
  | k128 => rfl
  | k192 => exact congrArg₂ (blockOfWords · · 0 0) (h 4 (by decide)) (h 5 (by decide))
  | k256 =>
    have h4 : key[4] = key'[4] := h 4 (by decide)
    have h5 : key[5] = key'[5] := h 5 (by decide)
    have h6 : key[6] = key'[6] := h 6 (by decide)
    have h7 : key[7] = key'[7] := h 7 (by decide)
    rw [padRight, padRight, h4, h5, h6, h7]

/-- The context of a master key is made of its first KEYBITS/32 words (rules R22, R150). -/
theorem buildContext_congr (h : ∀ i : Fin 8, i.val < keyWords size → key[i] = key'[i]) :
    buildContext size key = buildContext size key' := by
  simp only [buildContext, encryptionKeys, padLeft_congr h, padRight_congr h]

end InitReads

/-- Settles O16: a rejected INIT reads none of its snapshot, an accepted one the words its context is made of. -/
theorem initReadsOnlyItsKeyWords : Obligations.InitReadsOnlyItsKeyWords := by
  intro s p q keybits keywords hkey
  have hp : { s with pending := some p }.pending = some p := rfl
  have hq : { s with pending := some q }.pending = some q := rfl
  cases hsize : acceptedKeySize keybits keywords with
  | none =>
    rw [exec_init_of_rejected hp hsize, exec_init_of_rejected hq hsize]
    rfl
  | some size =>
    obtain ⟨hbits, hwords⟩ := (acceptedKeySize_eq_some_iff _ _ _).1 hsize
    have henough : keybits / 32 ≤ keywords := hbits ▸ hwords
    have hcontext : buildContext size p.key = buildContext size q.key :=
      buildContext_congr fun i hi => hkey i (hbits ▸ hi)
    rw [exec_init_of_accepted hp hbits henough, exec_init_of_accepted hq hbits henough, hcontext]
    rfl

/-! ### Completions (30_encoding.md rule R92) -/

/-- Settles O17: ENCRYPT is the transform under EK, and its result's words are those of rule R189. -/
theorem encryptWritesItsResult : Obligations.EncryptWritesItsResult := by
  rintro s p _ hp hctx rfl
  exact runTransform_of_context Context.ek hp hctx

/-- Settles O18: DECRYPT is the transform under DK, and its result's words are those of rule R189. -/
theorem decryptWritesItsResult : Obligations.DecryptWritesItsResult := by
  rintro s p _ hp hctx rfl
  exact runTransform_of_context Context.dk hp hctx

/-- A command that answers a next state had a command pending. -/
theorem exists_pending_of_exec {i : Instr} {s t : State} (h : exec i s = .next t) : ∃ p, s.pending = some p := by
  cases hp : s.pending with
  | none => cases h.symm.trans (exec_idle i s hp)
  | some p => exact ⟨p, rfl⟩

/-- Settles O23: an error, a committed context and a written result are the only updates a command makes. -/
theorem commandsKeepTheirFrame : Obligations.CommandsKeepTheirFrame := by
  intro i s t h
  obtain ⟨p, hp⟩ := exists_pending_of_exec h
  rcases exec_cases i s p hp with ⟨e, -, -, -, he⟩ | ⟨kb, kw, size, rfl, -, he⟩ | ⟨y, -, hi, he⟩ <;>
    cases h.symm.trans he
  · exact ⟨rfl, rfl, rfl, rfl, rfl, fun _ => rfl, fun _ _ _ => ⟨rfl, fun _ => rfl⟩, fun _ => rfl⟩
  · exact ⟨rfl, rfl, rfl, rfl, rfl, fun _ => rfl, fun _ _ _ => ⟨rfl, fun _ => rfl⟩, nofun⟩
  · refine ⟨rfl, rfl, rfl, rfl, rfl, fun _ => rfl, fun kb kw hinit => ?_, fun _ => rfl⟩
    rcases hi with rfl | rfl <;> cases hinit

/-- Settles O44: a completion with an error is `raiseError`, and every other one reports success. -/
theorem errorsArePrecise : Obligations.ErrorsArePrecise := by
  intro s t hpending h herr
  rcases engineStep_cases s with
    ⟨hidle, -⟩ | ⟨p, -, ⟨e, -, -, he⟩ | ⟨kb, kw, size, -, -, he⟩ | ⟨y, -, -, he⟩⟩
  · exact absurd hidle hpending
  · cases h.symm.trans he; rfl
  · cases h.symm.trans he; exact absurd rfl herr
  · cases h.symm.trans he; exact absurd rfl herr

/-- The error a transform reports (rules R188, R202). -/
theorem runTransform_err {table : Context → Vector Block 17} {s t : State} {p : Snapshot} (hp : s.pending = some p)
    (h : runTransform table s = .next t) : t.err = if s.ctx.valid then .noError else .noContext := by
  cases hctx : s.ctx.valid with
  | false => cases h.symm.trans (runTransform_of_noContext table hp hctx); rfl
  | true => cases h.symm.trans (runTransform_of_context table hp hctx); rfl

/-- The error INIT reports (rules R151, R201). -/
theorem execInit_err {s t : State} {p : Snapshot} {keybits keywords : Nat} (hp : s.pending = some p)
    (h : exec (.init keybits keywords) s = .next t) :
    t.err = if (keybits = 128 ∨ keybits = 192 ∨ keybits = 256) ∧ keybits / 32 ≤ keywords then .noError
      else .invalidKeyLength := by
  cases hsize : acceptedKeySize keybits keywords with
  | none =>
    have hbad := (acceptedKeySize_eq_none_iff keybits keywords).1 hsize
    cases h.symm.trans (exec_init_of_rejected hp hsize)
    rw [if_neg (by omega)]
    rfl
  | some size =>
    obtain ⟨rfl, hwords⟩ := (acceptedKeySize_eq_some_iff _ _ _).1 hsize
    have hsupported : keyBits size = 128 ∨ keyBits size = 192 ∨ keyBits size = 256 := by cases size <;> decide
    cases h.symm.trans (exec_init_of_accepted hp rfl hwords)
    rw [if_pos ⟨hsupported, hwords⟩]
    rfl

/-- Settles O43: the word decides first, and then the command's own check. -/
theorem completionReportsItsError : Obligations.CompletionReportsItsError := by
  intro s t p hp h
  cases hd : decode p.cmd with
  | error e => cases h.symm.trans (engineStep_of_decode_error hp hd); rfl
  | ok i =>
    have hexec : exec i s = .next t := (engineStep_of_decode_ok hp hd).symm.trans h
    cases i with
    | init kb kw => exact execInit_err hp hexec
    | encrypt => exact runTransform_err hp hexec
    | decrypt => exact runTransform_err hp hexec

/-- With snapshot `p` pending and context `c`, the outcome of `f` is the update `u` and the common completion, whatever
the rest of the state. -/
def CompletesBy (f : State → Host.Outcome State Fault Refusal) (p : Snapshot) (c : Context) (u : State → State) : Prop :=
  ∀ s : State, s.pending = some p → s.ctx = c → f s = .next (completeCommand (u s))

theorem CompletesBy.of_eq {f g : State → Host.Outcome State Fault Refusal} {p : Snapshot} {c : Context}
    {u : State → State} (h : CompletesBy f p c u) (hfg : ∀ s : State, s.pending = some p → g s = f s) :
    CompletesBy g p c u :=
  fun s hp hc => (hfg s hp).trans (h s hp hc)

theorem runTransform_completesBy (table : Context → Vector Block 17) (p : Snapshot) (c : Context) :
    CompletesBy (runTransform table) p c (raiseError .noContext) ∨
      ∃ y, CompletesBy (runTransform table) p c fun s => reportSuccess (writeResult y s) := by
  cases hctx : c.valid with
  | false => exact .inl fun s hp hc => runTransform_of_noContext table hp (hc ▸ hctx)
  | true =>
    refine .inr ⟨transform (roundNumber c.rounds) (table c) (inputBlock p.din), fun s hp hc => ?_⟩
    subst hc
    exact runTransform_of_context table hp hctx

/-- What a command does depends on the snapshot and CTX alone (rules R38, R92). -/
theorem exec_completesBy (i : Instr) (p : Snapshot) (c : Context) :
    (∃ e, CompletesBy (exec i) p c (raiseError e)) ∨
    (∃ c', CompletesBy (exec i) p c fun s => reportSuccess (commitContext c' s)) ∨
    ∃ y, CompletesBy (exec i) p c fun s => reportSuccess (writeResult y s) := by
  cases i with
  | init kb kw =>
    cases hsize : acceptedKeySize kb kw with
    | none => exact .inl ⟨.invalidKeyLength, fun s hp _ => exec_init_of_rejected hp hsize⟩
    | some size =>
      obtain ⟨hbits, hwords⟩ := (acceptedKeySize_eq_some_iff _ _ _).1 hsize
      exact .inr (.inl ⟨buildContext size p.key, fun s hp _ => exec_init_of_accepted hp hbits (hbits ▸ hwords)⟩)
  | encrypt => exact (runTransform_completesBy Context.ek p c).imp (⟨_, ·⟩) .inr
  | decrypt => exact (runTransform_completesBy Context.dk p c).imp (⟨_, ·⟩) .inr

/-- So does what the engine step does to a pending command. -/
theorem engineStep_completesBy (p : Snapshot) (c : Context) :
    (∃ e, CompletesBy engineStep p c (raiseError e)) ∨
    (∃ c', CompletesBy engineStep p c fun s => reportSuccess (commitContext c' s)) ∨
    ∃ y, CompletesBy engineStep p c fun s => reportSuccess (writeResult y s) := by
  cases hd : decode p.cmd with
  | error e => exact .inl ⟨.illegalCommand, fun s hp _ => engineStep_of_decode_error hp hd⟩
  | ok i =>
    have hstep (s : State) (hp : s.pending = some p) : engineStep s = exec i s := engineStep_of_decode_ok hp hd
    rcases exec_completesBy i p c with ⟨e, h⟩ | ⟨c', h⟩ | ⟨y, h⟩
    · exact .inl ⟨e, h.of_eq hstep⟩
    · exact .inr (.inl ⟨c', h.of_eq hstep⟩)
    · exact .inr (.inr ⟨y, h.of_eq hstep⟩)

/-- Settles O40: KEY and DIN are neither the snapshot nor CTX, and no completion writes them. -/
theorem pendingCommandRunsOnItsSnapshot : Obligations.PendingCommandRunsOnItsSnapshot := by
  intro s t k d hpending h
  obtain ⟨p, hp⟩ := Option.ne_none_iff_exists'.1 hpending
  rcases engineStep_completesBy p s.ctx with ⟨e, hstep⟩ | ⟨c', hstep⟩ | ⟨y, hstep⟩
  · cases h.symm.trans (hstep s hp rfl)
    exact hstep _ hp rfl
  · cases h.symm.trans (hstep s hp rfl)
    exact hstep _ hp rfl
  · cases h.symm.trans (hstep s hp rfl)
    exact hstep _ hp rfl

/-! ### Which keys a transform reads (45_block_transform.md rule R185) -/

/-- With at least two rounds, the transform reads the first R keys only. -/
theorem transform_congr {r : Nat} {k k' : Vector Block 17} (hr : 2 ≤ r)
    (h : ∀ i, i < r → keyAt k i = keyAt k' i) (pin : Block) : transform r k pin = transform r k' pin := by
  rw [transform, transform, finalStep, finalStep, runRounds_congr (fun i hi => h i (by omega)),
    h (r - 2) (by omega), h (r - 1) (by omega)]

/-- A valid context has 13, 15 or 17 rounds (rule R36). -/
theorem roundNumber_of_consistent {c : Context} (hvalid : c.valid = true) (hc : c.consistent) :
    roundNumber c.rounds = 13 ∨ roundNumber c.rounds = 15 ∨ roundNumber c.rounds = 17 := by
  rcases hc.2 hvalid with ⟨-, hr⟩ | ⟨-, hr⟩ | ⟨-, hr⟩ <;> simp [hr, roundNumber]

/-- The result of a transform with a context, whatever its other components. -/
theorem runTransform_dout {table : Context → Vector Block 17} {s t : State} {p : Snapshot} (hp : s.pending = some p)
    (hctx : s.ctx.valid = true) (h : runTransform table s = .next t) :
    t.dout = outputWords (transform (roundNumber s.ctx.rounds) (table s.ctx) (inputBlock p.din)) := by
  cases h.symm.trans (runTransform_of_context table hp hctx)
  rfl

/-- Two runs of a transform whose tables agree below the round count give the same result. -/
theorem runTransform_dout_congr {table : Context → Vector Block 17} {s s' t t' : State} {p : Snapshot}
    (hp : s.pending = some p) (hp' : s'.pending = some p) (hctx : s.ctx.valid = true) (hctx' : s'.ctx.valid = true)
    (hc : s.ctx.consistent) (hrounds : s'.ctx.rounds = s.ctx.rounds)
    (hkeys : ∀ i, i < roundNumber s.ctx.rounds → keyAt (table s.ctx) i = keyAt (table s'.ctx) i)
    (h : runTransform table s = .next t) (h' : runTransform table s' = .next t') : t.dout = t'.dout := by
  have hr := roundNumber_of_consistent hctx hc
  rw [runTransform_dout hp hctx h, runTransform_dout hp' hctx' h', hrounds, transform_congr (by omega) hkeys]

/-- Settles O21: each command is a transform under its own table, read below the round count only. -/
theorem transformReadsOnlyActiveKeys : Obligations.TransformReadsOnlyActiveKeys := by
  intro s t t' ek' dk' hctx hc
  constructor
  · intro hkeys h h'
    obtain ⟨p, hp⟩ := exists_pending_of_exec h
    exact runTransform_dout_congr (table := Context.ek) (s' := { s with ctx := { s.ctx with ek := ek', dk := dk' } })
      hp hp hctx hctx hc rfl hkeys h h'
  · intro hkeys h h'
    obtain ⟨p, hp⟩ := exists_pending_of_exec h
    exact runTransform_dout_congr (table := Context.dk) (s' := { s with ctx := { s.ctx with ek := ek', dk := dk' } })
      hp hp hctx hctx hc rfl hkeys h h'

end Sys2Proof.Machine

namespace Sys2Proof.Machine

/-! ### The substitution tables (40_tables.md rules R102 to R104) -/

theorem lookup_sb3_sb1 : ∀ b : Byte, lookup sb3 (lookup sb1 b) = b := by decide +kernel

theorem lookup_sb1_sb3 : ∀ b : Byte, lookup sb1 (lookup sb3 b) = b := by decide +kernel

theorem lookup_sb4_sb2 : ∀ b : Byte, lookup sb4 (lookup sb2 b) = b := by decide +kernel

theorem lookup_sb2_sb4 : ∀ b : Byte, lookup sb2 (lookup sb4 b) = b := by decide +kernel

/-- Settles O24: the tables undo each other at all 256 entries, so each has an inverse. -/
theorem tablesAreInverseBijections : Obligations.TablesAreInverseBijections :=
  have bijective {t u : Table} (hleft : ∀ b, lookup u (lookup t b) = b) (hright : ∀ b, lookup t (lookup u b) = b) :
      Function.Bijective (lookup t) := Function.bijective_iff_has_inverse.2 ⟨lookup u, hleft, hright⟩
  ⟨lookup_sb3_sb1, lookup_sb4_sb2, lookup_sb1_sb3, lookup_sb2_sb4, bijective lookup_sb3_sb1 lookup_sb1_sb3,
    bijective lookup_sb4_sb2 lookup_sb2_sb4, bijective lookup_sb1_sb3 lookup_sb3_sb1,
    bijective lookup_sb2_sb4 lookup_sb4_sb2, by decide⟩

/-! ### The substitution layers (42_substitution.md rule R132) -/

/-- At each lane the two layers have a table and its inverse. -/
theorem lookup_sl2Table_sl1Table (i : Nat) (b : Byte) : lookup (sl2Table i) (lookup (sl1Table i) b) = b := by
  rw [← sl1Table_mod_four, ← sl2Table_mod_four]
  have hlane : i % 4 < 4 := Nat.mod_lt _ (by decide)
  interval_cases i % 4
  · exact lookup_sb3_sb1 b
  · exact lookup_sb4_sb2 b
  · exact lookup_sb1_sb3 b
  · exact lookup_sb2_sb4 b

theorem lookup_sl1Table_sl2Table (i : Nat) (b : Byte) : lookup (sl1Table i) (lookup (sl2Table i) b) = b := by
  rw [← sl1Table_mod_four, ← sl2Table_mod_four]
  have hlane : i % 4 < 4 := Nat.mod_lt _ (by decide)
  interval_cases i % 4
  · exact lookup_sb1_sb3 b
  · exact lookup_sb2_sb4 b
  · exact lookup_sb3_sb1 b
  · exact lookup_sb4_sb2 b

/-- Substituting lane by lane is undone by tables that undo the lanes' tables. -/
theorem substitute_substitute {t u : Nat → Table} (h : ∀ i b, lookup (u i) (lookup (t i) b) = b) (x : Block) :
    substitute u (substitute t x) = x :=
  block_eq_of_bytes fun i hi => by rw [byteAt_substitute u _ i hi, byteAt_substitute t x i hi, h]

@[simp] theorem sl2_sl1 (x : Block) : sl2 (sl1 x) = x := substitute_substitute lookup_sl2Table_sl1Table x

@[simp] theorem sl1_sl2 (x : Block) : sl1 (sl2 x) = x := substitute_substitute lookup_sl1Table_sl2Table x

/-- Settles O30: lane by lane, by O24. -/
theorem substitutionLayersAreMutualInverses : Obligations.SubstitutionLayersAreMutualInverses :=
  ⟨fun x => ⟨sl2_sl1 x, sl1_sl2 x⟩, fun i b _ => ⟨lookup_sl2Table_sl1Table i b, lookup_sl1Table_sl2Table i b⟩⟩

/-! ### The diffusion layer (41_diffusion.md rules R122 to R124) -/

theorem xorBytes_eq_foldr (x : Block) (js : List Nat) :
    xorBytes x js = js.foldr (fun j acc => byteAt x j ^^^ acc) 0 := by
  induction js with
  | nil => rfl
  | cons j js ih => rw [xorBytes, ih, List.foldr_cons]

/-- Settles O27: the rows are checked one by one, and each output byte is the XOR over its row. -/
theorem diffusionMatrixIsSymmetric : Obligations.DiffusionMatrixIsSymmetric :=
  ⟨by decide, by decide, fun x i => (byteAt_diffuse x i.val i.isLt).trans (xorBytes_eq_foldr x _)⟩

/-- Bytes that are XORed twice cancel. -/
theorem xorBytes_append_self (x : Block) (l : List Nat) : xorBytes x (l ++ l) = 0 := by
  rw [xorBytes_append, BitVec.xor_self]; rfl

/-- Half of the occurrences in `l` of each byte index, rounded down. -/
def halved (l : List Nat) : List Nat := (List.range 16).flatMap fun j => List.replicate (l.count j / 2) j

/-- The input bytes of the rows that row i names: what output byte i of a twice diffused value is the XOR of. -/
def rowsOfRow (i : Nat) : List Nat := (diffusionRows.getD i []).flatMap fun j => diffusionRows.getD j []

/-- The rows that row i names hold i once, and everything else in pairs: `M·M = I` over GF(2) (rule R123). -/
theorem rowsOfRow_perm :
    ∀ i : Fin 16, (rowsOfRow i.val).Perm (i.val :: (halved (rowsOfRow i.val) ++ halved (rowsOfRow i.val))) := by
  decide +kernel

@[simp] theorem diffuse_diffuse (x : Block) : diffuse (diffuse x) = x := by
  refine block_eq_of_bytes fun i hi => ?_
  have hrow : ∀ j ∈ diffusionRows.getD i [], j < 16 := (diffusionMatrixIsSymmetric.1 ⟨i, hi⟩).2.2
  calc
    byteAt (diffuse (diffuse x)) i
      = xorBytes x (rowsOfRow i) := (byteAt_diffuse _ i hi).trans (xorBytes_diffuse x _ hrow)
    _ = xorBytes x (i :: (halved (rowsOfRow i) ++ halved (rowsOfRow i))) := xorBytes_perm x (rowsOfRow_perm ⟨i, hi⟩)
    _ = byteAt x i := by rw [xorBytes, xorBytes_append_self]; exact BitVec.xor_zero

/-- Settles O26: an output byte of the second layer is the XOR over the rows its row names, where all but one byte
cancel. -/
theorem diffusionIsAnInvolution : Obligations.DiffusionIsAnInvolution := diffuse_diffuse

theorem diffuse_xor (a b : Block) : diffuse (a ^^^ b) = diffuse a ^^^ diffuse b :=
  block_eq_of_bytes fun i hi => by
    rw [byteAt_diffuse _ i hi, xorBytes_xor, byteAt_xor, byteAt_diffuse a i hi, byteAt_diffuse b i hi]

/-- The value whose byte `j` is `c` and whose other bytes are 0. -/
abbrev singleByte (j : Nat) (c : Byte) : Block := blockOfBytes fun n => if n = j then c else 0

/-- The XOR over distinct bytes of such a value. -/
theorem xorBytes_singleByte (j : Nat) (c : Byte) {js : List Nat} (hnodup : js.Nodup) (hlt : ∀ k ∈ js, k < 16) :
    xorBytes (singleByte j c) js = if j ∈ js then c else 0 := by
  induction js with
  | nil => rfl
  | cons k js ih =>
    obtain ⟨hk, hnodup⟩ := List.nodup_cons.1 hnodup
    rw [xorBytes, byteAt_blockOfBytes _ k (hlt k (by simp)), ih hnodup fun n hn => hlt n (by simp [hn])]
    by_cases hkj : k = j
    · subst hkj; simp [hk]
    · simp [hkj, Ne.symm hkj]

/-- Settles O28: linear because XOR is, and a single byte reaches each row that names it once. -/
theorem diffusionIsLinear : Obligations.DiffusionIsLinear := by
  refine ⟨diffuse_xor, by decide +kernel, by decide +kernel, fun j => ⟨by revert j; decide, fun c i => ?_⟩⟩
  obtain ⟨hnodup, -, hlt⟩ := diffusionMatrixIsSymmetric.1 i
  rw [byteAt_diffuse _ i.val i.isLt, xorBytes_singleByte j.val c hnodup hlt]

/-! ### The round functions (43_round_function.md rule R144) and the rotations (00_scope.md rule R12) -/

theorem fo_inverse (d rk : Block) : sl2 (diffuse (fo d rk)) ^^^ rk = d := by
  rw [fo, diffuse_diffuse, sl2_sl1, BitVec.xor_assoc, BitVec.xor_self, BitVec.xor_zero]

theorem fe_inverse (d rk : Block) : sl1 (diffuse (fe d rk)) ^^^ rk = d := by
  rw [fe, diffuse_diffuse, sl1_sl2, BitVec.xor_assoc, BitVec.xor_self, BitVec.xor_zero]

/-- The stated inverses are inverses on the other side too. -/
theorem fo_of_inverse (y rk : Block) : fo (sl2 (diffuse y) ^^^ rk) rk = y := by
  rw [fo, BitVec.xor_assoc, BitVec.xor_self, BitVec.xor_zero, sl1_sl2, diffuse_diffuse]

theorem fe_of_inverse (y rk : Block) : fe (sl1 (diffuse y) ^^^ rk) rk = y := by
  rw [fe, BitVec.xor_assoc, BitVec.xor_self, BitVec.xor_zero, sl2_sl1, diffuse_diffuse]

/-- Settles O31: from O26 and O30; D and RK enter by their XOR only. -/
theorem roundFunctionsHaveTheirInverses : Obligations.RoundFunctionsHaveTheirInverses := by
  refine ⟨fun d rk => ⟨(fo_inverse d rk).symm, (fe_inverse d rk).symm⟩, fun rk => ⟨?fo, ?fe⟩,
    fun d rk => ?xor, fun x => ?same, by decide +kernel, by decide +kernel⟩
  case fo => exact Function.bijective_iff_has_inverse.2 ⟨_, fun d => fo_inverse d rk, fun y => fo_of_inverse y rk⟩
  case fe => exact Function.bijective_iff_has_inverse.2 ⟨_, fun d => fe_inverse d rk, fun y => fe_of_inverse y rk⟩
  case xor => simp [fo, fe]
  case same => simp only [fo, fe, BitVec.xor_self, and_self]

/-- Settles O32: the rotation left by n is made of the same two shifts as the library's, in the other order. -/
theorem rotationsRotate : Obligations.RotationsRotate := by
  intro v n hn
  have hrol : rol v n = v.rotateLeft n := by
    rw [rol, ror, BitVec.rotateLeft_def, Nat.mod_eq_of_lt hn, Nat.sub_sub_self hn.le, BitVec.or_comm]
  exact ⟨ror_eq_rotateRight v hn, hrol, fun hpos => hrol.symm.trans (rol_eq_rotateRight v hpos)⟩

/-! ### Decryption undoes encryption (45_block_transform.md rule R187) -/

/-- The substitution of round j: SL1 where it is odd, SL2 where it is even (rule R183). -/
def roundLayer (j : Nat) : Block → Block := if j % 2 = 1 then sl1 else sl2

theorem roundStep_eq (k : Vector Block 17) (j : Nat) (p : Block) :
    roundStep k j p = diffuse (roundLayer j (p ^^^ keyAt k (j - 1))) := by
  by_cases h : j % 2 = 1 <;> simp [roundStep, roundLayer, h, fo, fe]

/-- Rounds of different parity have inverse substitutions. -/
theorem roundLayer_roundLayer {i j : Nat} (h : i % 2 ≠ j % 2) (x : Block) : roundLayer i (roundLayer j x) = x := by
  by_cases hi : i % 2 = 1
  · have hj : ¬ j % 2 = 1 := by omega
    simp [roundLayer, hi, hj]
  · have hj : j % 2 = 1 := by omega
    simp [roundLayer, hi, hj]

/-- One table is the other with its first R entries reversed and A applied to the interior ones: what rules R158 and R159
make of EK. -/
structure KeysReversed (r : Nat) (k k' : Vector Block 17) : Prop where
  first : keyAt k' 0 = keyAt k (r - 1)
  interior : ∀ i, 1 ≤ i → i ≤ r - 2 → keyAt k' i = diffuse (keyAt k (r - 1 - i))
  last : keyAt k' (r - 1) = keyAt k 0

/-- Reversing twice gives the first R entries back, because A is an involution. -/
theorem KeysReversed.symm {r : Nat} {k k' : Vector Block 17} (h : KeysReversed r k k') : KeysReversed r k' k where
  first := h.last.symm
  interior i h1 h2 := by
    rw [h.interior (r - 1 - i) (by omega) (by omega), diffuse_diffuse, show r - 1 - (r - 1 - i) = i by omega]
  last := h.first.symm

theorem keysReversed_decryptionKeys {r : Nat} (hr : 2 ≤ r ∧ r ≤ 17) (ek : Vector Block 17) :
    KeysReversed r ek (decryptionKeys ek r) where
  first := by rw [keyAt_decryptionKeys ek r 0 (by omega), decryptionKey_first]
  interior i h1 h2 := by rw [keyAt_decryptionKeys ek r i (by omega), decryptionKey_interior ek h1 (by omega)]
  last := by rw [keyAt_decryptionKeys ek r (r - 1) (by omega), decryptionKey_last ek hr.1]

/-- The rounds under the reversed table walk back through the rounds under the table: after j of them, the value that the
next substitution reads is the one the substitution of round R-1-j gave. -/
theorem runRounds_reversed {r : Nat} {k k' : Vector Block 17} (hodd : r % 2 = 1) (h : KeysReversed r k k') (pin : Block)
    {j : Nat} (hj : j ≤ r - 2) :
    runRounds k' j (transform r k pin) ^^^ keyAt k' j =
      roundLayer (r - 1 - j) (runRounds k (r - 2 - j) pin ^^^ keyAt k (r - 2 - j)) := by
  induction j with
  | zero =>
    have heven : ¬ (r - 1) % 2 = 1 := by omega
    rw [runRounds, h.first, transform, finalStep, BitVec.xor_assoc, BitVec.xor_self, BitVec.xor_zero]
    simp [roundLayer, heven]
  | succ j ih =>
    have hrounds : runRounds k (r - 2 - j) pin = roundStep k (r - 2 - j) (runRounds k (r - 2 - (j + 1)) pin) :=
      runRounds_of_pos k pin (by omega)
    rw [runRounds, roundStep_eq, Nat.add_sub_cancel, ih (by omega), roundLayer_roundLayer (by omega),
      h.interior (j + 1) (by omega) hj, show r - 1 - (j + 1) = r - 2 - j by omega, ← diffuse_xor, BitVec.xor_assoc,
      BitVec.xor_self, BitVec.xor_zero, hrounds, roundStep_eq, diffuse_diffuse]
    rfl

/-- The transform under the reversed table undoes the transform under the table. -/
theorem transform_reversed {r : Nat} {k k' : Vector Block 17} (hodd : r % 2 = 1) (hr : 2 ≤ r) (h : KeysReversed r k k')
    (pin : Block) : transform r k' (transform r k pin) = pin := by
  have hlast := runRounds_reversed hodd h pin (Nat.le_refl (r - 2))
  rw [Nat.sub_self, show r - 1 - (r - 2) = 1 by omega] at hlast
  rw [transform, finalStep, hlast, h.last]
  simp [roundLayer, runRounds]

/-- Two transforms one after the other, the second on the first one's result and under the reversed table, give the
first one's block. -/
theorem runTransform_roundTrip {f g : Context → Vector Block 17} {s : State} {p : Snapshot} (hp : s.pending = some p)
    (hctx : s.ctx.valid = true) (hc : s.ctx.consistent)
    (h : KeysReversed (roundNumber s.ctx.rounds) (f s.ctx) (g s.ctx)) :
    ∃ t, runTransform f s = .next t ∧
      ∀ q : Snapshot, q.din = t.dout →
        ∃ u, runTransform g { t with pending := some q } = .next u ∧ u.dout = p.din := by
  have hr := roundNumber_of_consistent hctx hc
  refine ⟨_, runTransform_of_context f hp hctx, fun q hq => ?_⟩
  have hblock : inputBlock q.din = transform (roundNumber s.ctx.rounds) (f s.ctx) (inputBlock p.din) := by
    rw [hq]
    exact inputBlock_outputWords _
  refine ⟨_, runTransform_of_context g rfl hctx, ?_⟩
  calc
    outputWords (transform (roundNumber s.ctx.rounds) (g s.ctx) (inputBlock q.din))
      = outputWords (inputBlock p.din) := by rw [hblock, transform_reversed (by omega) (by omega) h]
    _ = p.din := outputWords_inputBlock p.din

/-- Settles O22: DK is EK reversed, and so EK is DK reversed, below the round count. -/
theorem decryptAndEncryptUndoEachOther : Obligations.DecryptAndEncryptUndoEachOther := by
  intro s p hp hctx hc htables
  have hr := roundNumber_of_consistent hctx hc
  have hdk : s.ctx.dk = decryptionKeys s.ctx.ek (roundNumber s.ctx.rounds) := by
    simpa only [Context.tablesAgree, hctx, if_true] using htables
  have hreversed : KeysReversed (roundNumber s.ctx.rounds) s.ctx.ek s.ctx.dk :=
    hdk ▸ keysReversed_decryptionKeys (by omega) s.ctx.ek
  exact ⟨runTransform_roundTrip hp hctx hc hreversed, runTransform_roundTrip hp hctx hc hreversed.symm⟩

end Sys2Proof.Machine

namespace Sys2Proof.Machine

/-! ### The encoding's written-out words (95_test_vectors.md L2.9) -/

/-- Settles O1: eight closed instances of the decoder. -/
theorem decodesWrittenOutWords : Obligations.DecodesWrittenOutWords := by
  unfold Obligations.DecodesWrittenOutWords; decide

/-! ### What hosts cannot read (10_state.md rules R22, R25, R35; 60_exceptions.md rule R210) -/

/-- The state with other contents of its secret components: KEY, PENDING and the two round-key tables. -/
abbrev State.withSecrets (s : State) (k : Vector Word 8) (p : Option Snapshot) (ek dk : Vector Block 17) : State :=
  { s with key := k, pending := p, ctx := { s.ctx with ek := ek, dk := dk } }

section Secrets
variable {s : State} {p : Option Snapshot} (k : Vector Word 8) (ek dk : Vector Block 17)

/-- STATUS tells of the secrets only whether a command is pending. -/
theorem statusWord_withSecrets (hp : p.isSome = s.pending.isSome) :
    statusWord (s.withSecrets k p ek dk) = statusWord s := by
  have hbusy : busy (s.withSecrets k p ek dk) = busy s := hp
  rw [statusWord, hbusy]
  rfl

theorem observe_withSecrets (hp : p.isSome = s.pending.isSome) : (s.withSecrets k p ek dk).observe = s.observe :=
  observe_congr (statusWord_withSecrets k ek dk hp) rfl rfl rfl rfl

/-- No register shows a secret (rule R58). -/
theorem readReg_withSecrets (r : Reg) (hp : p.isSome = s.pending.isSome) :
    readReg r (s.withSecrets k p ek dk) = readReg r s := by
  cases r with
  | cmd => rfl
  | status => exact statusWord_withSecrets k ek dk hp
  | key i => rfl
  | din i => rfl
  | dout i => rfl

theorem accessAnswer_withSecrets (a : Access) (hp : p.isSome = s.pending.isSome) :
    accessAnswer a (s.withSecrets k p ek dk) = accessAnswer a s := by
  simp only [accessAnswer, answerAt, readReg_withSecrets k ek dk _ hp]

/-- Whether an access writes a register, and which, is a matter of the access alone (rules R51 to R57). -/
theorem accessEffect_uniform (a : Access) :
    (∀ s, accessEffect a s = s) ∨ ∃ r v, ∀ s, accessEffect a s = writeReg r v s := by
  by_cases hw : inWindow a.addr
  · simp only [accessEffect, if_pos hw, effectAt]
    cases selectReg a.width (a.addr - Config.engineBase) with
    | none => exact .inl fun _ => rfl
    | some r =>
      cases a.kind with
      | read => exact .inl fun _ => rfl
      | write v => exact .inr ⟨r, v, fun _ => rfl⟩
  · exact .inl fun s => by rw [accessEffect, if_neg hw]

/-- A register write leaves states that differ in their secrets only, and makes a command pending in both or neither. -/
theorem writeReg_withSecrets (r : Reg) (v : Word) (hp : p.isSome = s.pending.isSome) :
    ∃ k' p', p'.isSome = (writeReg r v s).pending.isSome ∧
      writeReg r v (s.withSecrets k p ek dk) = (writeReg r v s).withSecrets k' p' ek dk := by
  cases r with
  | cmd =>
    cases hs : s.pending with
    | none =>
      obtain rfl : p = none := by simpa [hs] using hp
      simp only [writeReg, issueCommand_of_idle v hs, issueCommand_of_idle v (s := s.withSecrets k none ek dk) rfl]
      exact ⟨k, some ⟨v, k, s.din⟩, rfl, rfl⟩
    | some q =>
      have hbusy : busy s = true := by simp [busy, hs]
      simp only [writeReg, issueCommand_of_busy v hbusy,
        issueCommand_of_busy v (s := s.withSecrets k p ek dk) (hp.trans hbusy)]
      exact ⟨k, p, hp, rfl⟩
  | status =>
    refine ⟨k, p, by simp [writeReg, hp], ?_⟩
    cases hv : v.getLsbD 8 <;> simp only [writeReg, writeStatus, hv] <;> rfl
  | key i => exact ⟨k.set i v, p, hp, rfl⟩
  | din i => exact ⟨k, p, hp, rfl⟩
  | dout i => exact ⟨k, p, hp, rfl⟩

theorem accessEffect_withSecrets (a : Access) (hp : p.isSome = s.pending.isSome) :
    ∃ k' p', p'.isSome = (accessEffect a s).pending.isSome ∧
      accessEffect a (s.withSecrets k p ek dk) = (accessEffect a s).withSecrets k' p' ek dk := by
  rcases accessEffect_uniform a with hquiet | ⟨r, v, hwrite⟩
  · exact ⟨k, p, by rw [hquiet, hp], by rw [hquiet, hquiet]⟩
  · rw [hwrite, hwrite]
    exact writeReg_withSecrets k ek dk r v hp

theorem performAccess_withSecrets (a : Access) (hp : p.isSome = s.pending.isSome) :
    ∃ k' p', p'.isSome = (performAccess a s).pending.isSome ∧
      performAccess a (s.withSecrets k p ek dk) = (performAccess a s).withSecrets k' p' ek dk := by
  obtain ⟨k', p', hp', he⟩ := accessEffect_withSecrets k ek dk a hp
  refine ⟨k', p', hp', ?_⟩
  rw [performAccess, he, accessAnswer_withSecrets k ek dk a hp]
  rfl

theorem pollStatus_withSecrets (host : Nat) (hp : p.isSome = s.pending.isSome) :
    (pollStatus host (s.withSecrets k p ek dk)) = (pollStatus host s).withSecrets k p ek dk := by
  have hbusy : busy (s.withSecrets k p ek dk) = busy s := hp
  rw [pollStatus_eq, pollStatus_eq, hbusy, statusWord_withSecrets k ek dk hp]

/-- Any event but the engine step leaves states that differ in their secrets only. -/
theorem step_withSecrets {t t' : State} (hp : p.isSome = s.pending.isSome) (hnext : ¬ s.engineNext)
    (h : step s = .next t) (h' : step (s.withSecrets k p ek dk) = .next t') :
    ∃ k' p' ek' dk', p'.isSome = t.pending.isSome ∧ t' = t.withSecrets k' p' ek' dk' := by
  rcases step_cases s with ⟨hs, -⟩ | ⟨rest, hs, -⟩ | ⟨a, rest, hs, he⟩ | ⟨host, rest, hs, he⟩ | ⟨rest, hs, he⟩
  · exact absurd (.inl hs) hnext
  · exact absurd (.inr ⟨rest, hs⟩) hnext
  · cases h.symm.trans he
    obtain ⟨k', p', hp', hperform⟩ := performAccess_withSecrets (s := setScript rest s) k ek dk a hp
    cases h'.symm.trans (step_of_access hs)
    exact ⟨k', p', ek, dk, hp', hperform⟩
  · cases h.symm.trans he
    have hstep : step (s.withSecrets k p ek dk) =
        .next (pollStatus host ((setScript rest s).withSecrets k p ek dk)) := by
      simp only [step, hs, runEvent]; rfl
    cases h'.symm.trans hstep
    refine ⟨k, p, ek, dk, ?_, pollStatus_withSecrets (s := setScript rest s) k ek dk host hp⟩
    rw [pollStatus_eq]
    exact hp
  · cases h.symm.trans he
    have hstep : step (s.withSecrets k p ek dk) = .next (resetEngine (setScript rest s)) := by
      simp only [step, hs, runEvent]; rfl
    cases h'.symm.trans hstep
    exact ⟨_, _, _, _, rfl, rfl⟩

end Secrets

/-- Settles O41: the second state is the first with other secrets, and so is what the step makes of it. -/
theorem hostsCannotReadSecrets : Obligations.HostsCannotReadSecrets := by
  rintro s s' t t' ⟨hs', hp⟩ hnext h h'
  rw [hs'] at h'
  obtain ⟨k, p, ek, dk, hpending, rfl⟩ := step_withSecrets s'.key s'.ctx.ek s'.ctx.dk hp hnext h h'
  exact ⟨observe_withSecrets k ek dk hpending, rfl, hpending⟩

/-- Settles O58: KEY is written without a value to read back, and the observation leaves out KEY and the tables. -/
theorem observationDoesNotTellKeys : Obligations.ObservationDoesNotTellKeys := by
  refine ⟨fun s host i v rest hs => ⟨_, step_of_writeAccess (.key i) hs, rfl, ?_⟩,
    fun s k ek dk => observe_withSecrets (p := s.pending) k ek dk rfl⟩
  refine observe_congr rfl rfl rfl ?_ ?_
  · exact (readValues_append s.replies _).trans (List.append_nil _)
  · exact (busErrors_append s.replies _).trans (List.append_nil _)

/-! ### The observation (70_reset_and_hazards.md rule R240) -/

theorem readValues_eq_filterMap_answers (rs : List Reply) :
    readValues rs = (rs.map (·.answer)).filterMap Answer.readValue := by
  rw [readValues, List.filterMap_map]; rfl

theorem busErrors_eq_filterMap_answers (rs : List Reply) :
    busErrors rs = (rs.map (·.answer)).zipIdx.filterMap fun p => if p.1 = .busError then some p.2 else none := by
  rw [busErrors, List.zipIdx_map, List.filterMap_map]; rfl

/-- Settles O57: an access makes one reply, and what the observation takes of the replies is a matter of the answers. -/
theorem observationTakesReadsAndBusErrors : Obligations.ObservationTakesReadsAndBusErrors := by
  constructor
  · intro s a rest hs
    obtain ⟨-, -, -, hreplies⟩ := performAccess_frame a (setScript rest s)
    refine ⟨_, accessAnswer a (setScript rest s), step_of_access hs, hreplies, ?_, ?_⟩
    · simp only [State.observe, hreplies, readValues_append]
      cases accessAnswer a (setScript rest s) <;> rfl
    · simp only [State.observe, hreplies, busErrors_append]
      rfl
  · intro s s' hstatus hdout hdin hanswers
    refine observe_congr hstatus hdout hdin ?_ ?_
    · rw [readValues_eq_filterMap_answers, readValues_eq_filterMap_answers, hanswers]
    · rw [busErrors_eq_filterMap_answers, busErrors_eq_filterMap_answers, hanswers]

end Sys2Proof.Machine

namespace Sys2Proof.Machine

/-! ### The engine step in a run -/

/-- After an engine step no command is pending, and the script and the replies are as before (rule R92). -/
theorem engineStep_idle_after {s t : State} (h : engineStep s = .next t) :
    t.pending = none ∧ t.script = s.script ∧ t.replies = s.replies := by
  rcases engineStep_cases s with ⟨hidle, he⟩ | ⟨p, -, ⟨e, -, -, he⟩ | ⟨kb, kw, size, -, -, he⟩ | ⟨y, -, -, he⟩⟩ <;>
    cases h.symm.trans he
  · exact ⟨hidle, rfl, rfl⟩
  · exact ⟨rfl, rfl, rfl⟩
  · exact ⟨rfl, rfl, rfl⟩
  · exact ⟨rfl, rfl, rfl⟩

/-- A pending command's engine step leaves BUSY 0 and DONE 1 (rule R92). -/
theorem engineStep_completes {s t : State} {p : Snapshot} (hp : s.pending = some p) (h : engineStep s = .next t) :
    busy t = false ∧ t.done = true := by
  rcases engineStep_cases s with ⟨hidle, -⟩ | ⟨q, -, ⟨e, -, -, he⟩ | ⟨kb, kw, size, -, -, he⟩ | ⟨y, -, -, he⟩⟩
  · exact absurd (hidle.symm.trans hp) nofun
  · cases h.symm.trans he; exact ⟨rfl, rfl⟩
  · cases h.symm.trans he; exact ⟨rfl, rfl⟩
  · cases h.symm.trans he; exact ⟨rfl, rfl⟩

theorem runSteps_one {s t : State} (h : step s = .next t) : runSteps 1 s = .next t := runSteps_succ h 0

/-! ### WAIT (30_encoding.md rule R95, 70_reset_and_hazards.md rules R239, R240) -/

/-- Where a WAIT leaves an engine that is idle in state `u`: its last poll is a read of STATUS. -/
abbrev State.afterWait (u : State) (host : Nat) (rest : List Event) : State :=
  u.answered rest (readAccess host 0x04) (.data (statusWord u))

theorem step_wait_idle {u : State} (hu : u.pending = none) (host : Nat) (rest : List Event) :
    step (setScript (.wait host :: rest) u) = .next (u.afterWait host rest) := by
  have hbusy : busy u = false := by simp [busy, hu]
  simp only [step, setScript_script, runEvent, pollStatus_eq, busy_setScript, hbusy, Bool.false_eq_true, if_false]
  rfl

theorem step_wait_busy {s : State} (hs : busy s = true) (host : Nat) (rest : List Event) :
    step (setScript (.wait host :: rest) s) = .next (setScript (.engineStep :: .wait host :: rest) s) := by
  simp only [step, setScript_script, runEvent, pollStatus_eq, busy_setScript, hs, if_true]
  rfl

theorem step_engineStep {s u : State} (h : engineStep s = .next u) (rest : List Event) :
    step (setScript (.engineStep :: rest) s) = .next (setScript rest u) :=
  (step_of_script_engineStep rfl).trans (engineStep_script s rest u h)

/-- A WAIT takes one step where the engine is idle and three where it is busy, and ends in the state that the engine step
leads to. -/
theorem runSteps_wait {s u : State} (h : engineStep s = .next u) (host : Nat) (rest : List Event) :
    ∃ n ≤ 3, runSteps n (setScript (.wait host :: rest) s) = .next (u.afterWait host rest) := by
  have hu := (engineStep_idle_after h).1
  cases hbusy : busy s with
  | false =>
    have hidle : s.pending = none := by simpa [busy] using hbusy
    cases h.symm.trans (engineStep_of_idle hidle)
    exact ⟨1, by decide, runSteps_one (step_wait_idle hidle host rest)⟩
  | true =>
    refine ⟨3, by decide, ?_⟩
    rw [runSteps_succ (step_wait_busy hbusy host rest), runSteps_succ (step_engineStep h _)]
    exact runSteps_one (step_wait_idle hu host rest)

/-- Engine steps before a WAIT lead to the same end: the first does what the WAIT's own would do, the others nothing. -/
theorem runSteps_engineSteps_wait {s u : State} (h : engineStep s = .next u) (host : Nat) (rest : List Event) (k : Nat) :
    ∃ m ≤ k + 3, runSteps m (setScript (List.replicate k .engineStep ++ .wait host :: rest) s) =
      .next (u.afterWait host rest) := by
  induction k generalizing s with
  | zero =>
    obtain ⟨n, hn, hrun⟩ := runSteps_wait h host rest
    exact ⟨n, by omega, hrun⟩
  | succ k ih =>
    obtain ⟨m, hm, hrun⟩ := ih (engineStep_of_idle (engineStep_idle_after h).1)
    exact ⟨m + 1, by omega, (runSteps_succ (step_engineStep h _) m).trans hrun⟩

theorem setScript_self {s : State} {es : List Event} (hs : s.script = es) : setScript es s = s := by
  subst hs; rfl

/-- STATUS of an idle engine shows BUSY 0 (rule R27). -/
theorem statusWord_bit0_of_idle {u : State} (hu : u.pending = none) : (statusWord u).getLsbD 0 = false := by
  rw [statusWord_busy, busy, hu]; rfl

/-- Settles O55: after at most three steps the WAIT's last poll has read STATUS of an idle engine. -/
theorem waitLoopEnds : Obligations.WaitLoopEnds := by
  intro s host rest hs
  obtain ⟨u, h⟩ := engineStep_next s
  have hu := (engineStep_idle_after h).1
  obtain ⟨n, hn, hrun⟩ := runSteps_wait h host rest
  rw [setScript_self hs] at hrun
  exact ⟨n, _, hn, hrun, rfl, hu, u.replies, statusWord u, rfl, statusWord_bit0_of_idle hu⟩

/-- Settles O56: both runs end where the engine step, which every one of them takes if a command is pending, leads. -/
theorem waitDoesNotTellItsPolls : Obligations.WaitDoesNotTellItsPolls := by
  intro s host k rest hs
  obtain ⟨u, h⟩ := engineStep_next s
  obtain ⟨hu, -, hreplies⟩ := engineStep_idle_after h
  obtain ⟨n, hn, hrun⟩ := runSteps_wait h host rest
  obtain ⟨m, hm, hrunAfter⟩ := runSteps_engineSteps_wait h host rest k
  rw [setScript_self hs] at hrun
  rw [← hs] at hrunAfter
  exact ⟨n, m, _, statusWord u, hn, hm, hrun, hrunAfter, rfl, by rw [← hreplies], statusWord_bit0_of_idle hu⟩

/-! ### The end of a run (70_reset_and_hazards.md rules R239, R240) -/

/-- Each event is used up within three steps. -/
theorem runSteps_event {s : State} {e : Event} {rest : List Event} (hs : s.script = e :: rest) :
    ∃ (n : Nat) (t : State), n ≤ 3 ∧ runSteps n s = .next t ∧ t.script = rest := by
  cases e with
  | access a =>
    exact ⟨1, _, by decide, runSteps_one (step_of_access hs), (performAccess_frame a (setScript rest s)).2.2.1⟩
  | engineStep =>
    obtain ⟨u, h⟩ := engineStep_next (setScript rest s)
    exact ⟨1, u, by decide, runSteps_one ((step_of_script_engineStep hs).trans h), (engineStep_idle_after h).2.1⟩
  | wait host =>
    obtain ⟨n, t, hn, hrun, hscript, -⟩ := waitLoopEnds s host rest hs
    exact ⟨n, t, hn, hrun, hscript⟩
  | reset =>
    have hstep : step s = .next (resetEngine (setScript rest s)) := by simp only [step, hs, runEvent]
    exact ⟨1, _, by decide, runSteps_one hstep, rfl⟩

/-- All events are used up within three steps for each. -/
theorem runSteps_script (s : State) :
    ∃ (n : Nat) (t : State), n ≤ 3 * s.script.length ∧ runSteps n s = .next t ∧ t.script = [] := by
  generalize hes : s.script = es
  induction es generalizing s with
  | nil => exact ⟨0, s, by simp, rfl, hes⟩
  | cons e rest ih =>
    obtain ⟨n, t, hn, hrun, hscript⟩ := runSteps_event hes
    obtain ⟨m, u, hm, hrunRest, hend⟩ := ih t hscript
    exact ⟨n + m, u, by simp only [List.length_cons]; omega, (runSteps_add hrun m).trans hrunRest, hend⟩

/-- Settles O54: the events are used up, and one engine step completes what may still be pending. -/
theorem everyRunEnds : Obligations.EveryRunEnds := by
  intro s
  obtain ⟨n, t, hn, hrun, hscript⟩ := runSteps_script s
  obtain ⟨u, h⟩ := engineStep_next t
  obtain ⟨hpending, hu, -⟩ := engineStep_idle_after h
  have hend : u.script = [] := hu.trans hscript
  have hlast : runSteps 1 t = .next u := runSteps_one ((step_of_script_nil hscript).trans h)
  exact ⟨n + 1, u, by omega, (runSteps_add hrun 1).trans hlast, hend, hpending, by simp [hend], hpending⟩

/-- A run that reaches an ended state has one end, and it does not depend on how many further steps it is given. -/
theorem runToEnd_of_runSteps {s t : State} {n : Nat} (hrun : runSteps n s = .next t) (ht : t.runEnded) :
    ∃ u : State, u.runEnded ∧ (∃ k, runSteps k s = .next u) ∧ ∀ m, n ≤ m → runToEnd m s = some u := by
  induction n generalizing s with
  | zero =>
    cases hrun
    exact ⟨t, ht, ⟨0, rfl⟩, fun m _ => runToEnd_ended ht m⟩
  | succ n ih =>
    by_cases hs : s.runEnded
    · exact ⟨s, hs, ⟨0, rfl⟩, fun m _ => runToEnd_ended hs m⟩
    · obtain ⟨s₁, hstep⟩ := everyStepHasANextState s
      obtain ⟨u, hu, ⟨k, hk⟩, hend⟩ := ih ((runSteps_succ hstep n).symm.trans hrun)
      refine ⟨u, hu, ⟨k + 1, (runSteps_succ hstep k).trans hk⟩, fun m hm => ?_⟩
      obtain ⟨m, rfl⟩ : ∃ j, m = j + 1 := ⟨m - 1, by omega⟩
      rw [runToEnd_succ hs hstep, hend m (by omega)]

/-- The events that are no host's operation (rules R92, R230). -/
theorem fromHost_eq_false_iff (e : Event) : e.fromHost = false ↔ e = .engineStep ∨ e = .reset := by
  cases e <;> simp [Event.fromHost]

/-- An ended run's next event is an engine step of an idle engine, or a reset. -/
theorem step_of_runEnded {s : State} (hs : s.runEnded) (hreset : ¬ s.resetNext) :
    ∃ t, step s = .next t ∧ t.runEnded ∧ t.observe = s.observe := by
  obtain ⟨hevents, hidle⟩ := hs
  cases hes : s.script with
  | nil => exact ⟨s, (idleEngineKeepsItsState s hidle).1 hes, ⟨hevents, hidle⟩, rfl⟩
  | cons e rest =>
    rw [hes] at hevents
    obtain ⟨he, hrest⟩ := List.forall_mem_cons.1 hevents
    rcases (fromHost_eq_false_iff e).1 he with rfl | rfl
    · exact ⟨_, (idleEngineKeepsItsState s hidle).2 rest hes, ⟨hrest, hidle⟩, rfl⟩
    · exact absurd ⟨rest, hes⟩ hreset

/-- Settles O60: the run reaches an ended state by O54, and the first such state is its end. -/
theorem runEndsWithTheLastHostOperation : Obligations.RunEndsWithTheLastHostOperation := by
  refine ⟨fun s => ?_, fun s n hevents hidle => ?_, fun s => step_of_runEnded⟩
  · obtain ⟨n, t, hn, hrun, -, -, ht⟩ := everyRunEnds s
    obtain ⟨u, ⟨hevents, hidle⟩, hreached, hend⟩ := runToEnd_of_runSteps hrun ht
    exact ⟨u, fun e he => (fromHost_eq_false_iff e).1 (hevents e he), hidle, hreached, fun m hm => hend m (by omega)⟩
  · exact runToEnd_ended ⟨fun e he => (fromHost_eq_false_iff e).2 (hevents e he), hidle⟩ n

/-! ### A pending command completes (rule R239) -/

/-- An access leaves a pending command as it is: a write of CMD is dropped (rule R205). -/
theorem performAccess_pending {s : State} {p : Snapshot} (hp : s.pending = some p) (a : Access) :
    (performAccess a s).pending = some p := by
  rcases accessEffect_cases a s with he | ⟨r, v, -, he⟩
  · simp [performAccess, he, hp]
  · rcases writeReg_pending_done r v s with ⟨hpending, -⟩ | ⟨-, hidle, -⟩
    · simp [performAccess, he, hpending, hp]
    · cases hidle.symm.trans hp

/-- Until the engine step is next, or a reset, the events leave the pending command as it is. -/
theorem runSteps_to_engineNext {s : State} {p : Snapshot} (hp : s.pending = some p) (hreset : Event.reset ∉ s.script) :
    ∃ (n : Nat) (t : State), n ≤ s.script.length + 1 ∧ runSteps n s = .next t ∧ t.pending = some p ∧ t.engineNext := by
  generalize hes : s.script = es at hreset ⊢
  induction es generalizing s with
  | nil => exact ⟨0, s, by simp, rfl, hp, .inl hes⟩
  | cons e rest ih =>
    cases e with
    | access a =>
      obtain ⟨-, -, hscript, -⟩ := performAccess_frame a (setScript rest s)
      obtain ⟨n, t, hn, hrun, hpending, hnext⟩ := ih (performAccess_pending (s := setScript rest s) hp a)
        hscript fun hmem => hreset (List.mem_cons_of_mem _ hmem)
      exact ⟨n + 1, t, by simp only [List.length_cons]; omega, (runSteps_succ (step_of_access hes) n).trans hrun,
        hpending, hnext⟩
    | engineStep => exact ⟨0, s, by simp, rfl, hp, .inr ⟨rest, hes⟩⟩
    | wait host =>
      have hstep := step_wait_busy (s := s) (by simp [busy, hp]) host rest
      rw [setScript_self hes] at hstep
      exact ⟨1, _, by simp, runSteps_one hstep, hp, .inr ⟨_, rfl⟩⟩
    | reset => exact absurd List.mem_cons_self hreset

/-- The engine step, where it is next, completes the pending command. -/
theorem step_completes {s : State} {p : Snapshot} (hp : s.pending = some p) (hnext : s.engineNext) :
    ∃ u, step s = .next u ∧ busy u = false ∧ u.done = true := by
  rcases hnext with hs | ⟨rest, hs⟩
  · obtain ⟨u, h⟩ := engineStep_next s
    exact ⟨u, (step_of_script_nil hs).trans h, engineStep_completes hp h⟩
  · obtain ⟨u, h⟩ := engineStep_next (setScript rest s)
    exact ⟨u, (step_of_script_engineStep hs).trans h, engineStep_completes (s := setScript rest s) hp h⟩

/-- Settles O59: the command stays pending until the engine step is next, which completes it. -/
theorem pendingCommandRunsUnlessReset : Obligations.PendingCommandRunsUnlessReset := by
  intro s p hp hreset
  obtain ⟨n, t, hn, hrun, hpending, hnext⟩ := runSteps_to_engineNext hp hreset
  obtain ⟨u, hstep, hidle, hdone⟩ := step_completes hpending hnext
  exact ⟨n, t, u, hn, hrun, hpending, hnext, hstep, hidle, hdone⟩

end Sys2Proof.Machine
